-- ==== Sys2Proof/Word.lean ====
section
/-! DEFINITION. The words of the framer: bytes, byte strings, 32-bit registers, 64-bit bitmap words
(spec/00_scope.md R6). Bit 0 of a word is its least significant bit. -/

namespace Sys2Proof

/-- A byte, 8 bits (R6). A character is a byte. -/
abbrev Byte := BitVec 8

/-- A byte string: a finite list of bytes indexed from 0 (R6). -/
abbrev Bytes := List (BitVec 8)

/-- A 32-bit host register, command word or descriptor word (R35, R90, R100). -/
abbrev Word := BitVec 32

/-- One 64-bit bitmap word (R112). -/
abbrev BitmapWord := BitVec 64

end Sys2Proof
end

