-- ==== Sys2Proof/Syntax.lean ====
section
/-! DEFINITION. The syntax of the framer: the types every rule uses (spec/00_scope.md R7), the stages of the
field micro-operations (spec/30_encoding.md R105), and the instructions, one constructor per row of
spec/opcode_table.json: 24 commands (format C, R92) and 48 descriptor rows (format D, R105). -/

namespace Sys2Proof

/-- The nine content classes, in the order of their codes (R101). -/
inductive Class where
  | clsA | clsN | clsS | clsAn | clsAs | clsNs | clsAns | clsB | clsZ
deriving DecidableEq, Repr

/-- The three encodings of data and of length prefixes (R7, R102). -/
inductive Enc where
  | ascii | bcd | bin
deriving DecidableEq, Repr

/-- The four length disciplines (R7, R103). -/
inductive Disc where
  | fixed | lvar | llvar | lllvar
deriving DecidableEq, Repr

/-- The stages of one field: length and value on the decode path, format, length prefix and emit on the build
path (R105). Each is one `format` of the descriptor rows of spec/opcode_table.json. -/
inductive DStage where
  | dlen | dval | bfmt | bpfx | bemit
deriving DecidableEq, Repr

/-- The format of an instruction: a command word, or a descriptor word read at one stage (R90, R105). -/
inductive Format where
  | c
  | d (st : DStage)
deriving DecidableEq, Repr

/-- The instructions: one constructor per row of spec/opcode_table.json. A command carries the fields it reads
(R91, R92; the bits it ignores are not kept, R96), a micro-operation carries the whole descriptor word that
selects it (R105). -/
inductive Instr where
  /-- INIT, R301 of spec/46_accessors.md. -/
  | init (cat : BitVec 2) (strict : Bool)
  /-- DECODE, R220 of spec/44_decode.md. -/
  | decode
  /-- BUILD, R260 of spec/45_build.md. -/
  | build
  /-- SET_STRICT, R302 of spec/46_accessors.md. -/
  | setStrict (arg : BitVec 16)
  /-- GET_STRICT, R303 of spec/46_accessors.md. -/
  | getStrict
  /-- SET_MTI, R304 of spec/46_accessors.md. -/
  | setMti
  /-- GET_MTI, R305 of spec/46_accessors.md. -/
  | getMti
  /-- SET_BIT, R306 of spec/46_accessors.md. -/
  | setBit (key : BitVec 8) (arg : BitVec 16)
  /-- GET_BIT, R307 of spec/46_accessors.md. -/
  | getBit (key : BitVec 8)
  /-- SET_FIELD_TXT, R308 of spec/46_accessors.md. -/
  | setFieldTxt (key : BitVec 8)
  /-- SET_FIELD_INT, R309 of spec/46_accessors.md. -/
  | setFieldInt (key : BitVec 8)
  /-- GET_FIELD, R310 of spec/46_accessors.md. -/
  | getField (key : BitVec 8)
  /-- GET_DENC, R170 of spec/41_catalog.md. -/
  | getDenc (key : BitVec 8)
  /-- GET_LDISC, R171 of spec/41_catalog.md. -/
  | getLdisc (key : BitVec 8)
  /-- GET_CLASS, R172 of spec/41_catalog.md. -/
  | getClass (key : BitVec 8)
  /-- GET_LENC, R173 of spec/41_catalog.md. -/
  | getLenc (key : BitVec 8)
  /-- GET_MAXLEN, R174 of spec/41_catalog.md. -/
  | getMaxlen (key : BitVec 8)
  /-- GET_DESC, R175 of spec/41_catalog.md. -/
  | getDesc (key : BitVec 8)
  /-- BCD_DECODE, R140 of spec/40_primitive_codecs.md. -/
  | bcdDecode
  /-- BCD_ENCODE, R141 of spec/40_primitive_codecs.md. -/
  | bcdEncode
  /-- BCD_TO_INT, R142 of spec/40_primitive_codecs.md. -/
  | bcdToInt
  /-- INT_TO_BCD, R143 of spec/40_primitive_codecs.md. -/
  | intToBcd
  /-- HEX_ENCODE, R144 of spec/40_primitive_codecs.md. -/
  | hexEncode
  /-- HEX_DECODE, R145 of spec/40_primitive_codecs.md. -/
  | hexDecode
  /-- DLEN.FIXED, R224 of spec/44_decode.md. -/
  | dlenFixed (d : BitVec 32)
  /-- DLEN.ASCII_LVAR, R225 of spec/44_decode.md. -/
  | dlenAsciiLvar (d : BitVec 32)
  /-- DLEN.ASCII_LLVAR, R225 of spec/44_decode.md. -/
  | dlenAsciiLlvar (d : BitVec 32)
  /-- DLEN.ASCII_LLLVAR, R225 of spec/44_decode.md. -/
  | dlenAsciiLllvar (d : BitVec 32)
  /-- DLEN.BCD_LVAR, R226 of spec/44_decode.md. -/
  | dlenBcdLvar (d : BitVec 32)
  /-- DLEN.BCD_LLVAR, R226 of spec/44_decode.md. -/
  | dlenBcdLlvar (d : BitVec 32)
  /-- DLEN.BCD_LLLVAR, R226 of spec/44_decode.md. -/
  | dlenBcdLllvar (d : BitVec 32)
  /-- DLEN.BIN_LVAR, R227 of spec/44_decode.md. -/
  | dlenBinLvar (d : BitVec 32)
  /-- DLEN.BIN_LLVAR, R227 of spec/44_decode.md. -/
  | dlenBinLlvar (d : BitVec 32)
  /-- DLEN.BIN_LLLVAR, R227 of spec/44_decode.md. -/
  | dlenBinLllvar (d : BitVec 32)
  /-- DVAL.ASCII.N, R234 of spec/44_decode.md. -/
  | dvalAsciiN (d : BitVec 32)
  /-- DVAL.ASCII.T_a, R235 of spec/44_decode.md. -/
  | dvalAsciiTA (d : BitVec 32)
  /-- DVAL.ASCII.T_s, R235 of spec/44_decode.md. -/
  | dvalAsciiTS (d : BitVec 32)
  /-- DVAL.ASCII.T_an, R235 of spec/44_decode.md. -/
  | dvalAsciiTAn (d : BitVec 32)
  /-- DVAL.ASCII.T_as, R235 of spec/44_decode.md. -/
  | dvalAsciiTAs (d : BitVec 32)
  /-- DVAL.ASCII.T_ns, R235 of spec/44_decode.md. -/
  | dvalAsciiTNs (d : BitVec 32)
  /-- DVAL.ASCII.T_ans, R235 of spec/44_decode.md. -/
  | dvalAsciiTAns (d : BitVec 32)
  /-- DVAL.ASCII.T_b, R235 of spec/44_decode.md. -/
  | dvalAsciiTB (d : BitVec 32)
  /-- DVAL.ASCII.T_z, R235 of spec/44_decode.md. -/
  | dvalAsciiTZ (d : BitVec 32)
  /-- DVAL.BCD.N, R236 of spec/44_decode.md. -/
  | dvalBcdN (d : BitVec 32)
  /-- DVAL.BCD.Z, R237 of spec/44_decode.md. -/
  | dvalBcdZ (d : BitVec 32)
  /-- DVAL.BIN_n, R238 of spec/44_decode.md. -/
  | dvalBinN (d : BitVec 32)
  /-- DVAL.BIN_b, R238 of spec/44_decode.md. -/
  | dvalBinB (d : BitVec 32)
  /-- DVAL.BIN_z, R238 of spec/44_decode.md. -/
  | dvalBinZ (d : BitVec 32)
  /-- BFMT.FIXED.N, R264 of spec/45_build.md. -/
  | bfmtFixedN (d : BitVec 32)
  /-- BFMT.FIXED.T_a, R265 of spec/45_build.md. -/
  | bfmtFixedTA (d : BitVec 32)
  /-- BFMT.FIXED.T_s, R265 of spec/45_build.md. -/
  | bfmtFixedTS (d : BitVec 32)
  /-- BFMT.FIXED.T_an, R265 of spec/45_build.md. -/
  | bfmtFixedTAn (d : BitVec 32)
  /-- BFMT.FIXED.T_as, R265 of spec/45_build.md. -/
  | bfmtFixedTAs (d : BitVec 32)
  /-- BFMT.FIXED.T_ns, R265 of spec/45_build.md. -/
  | bfmtFixedTNs (d : BitVec 32)
  /-- BFMT.FIXED.T_ans, R265 of spec/45_build.md. -/
  | bfmtFixedTAns (d : BitVec 32)
  /-- BFMT.FIXED.P_b, R266 of spec/45_build.md. -/
  | bfmtFixedPB (d : BitVec 32)
  /-- BFMT.FIXED.P_z, R266 of spec/45_build.md. -/
  | bfmtFixedPZ (d : BitVec 32)
  /-- BFMT.VAR_LVAR, R272 of spec/45_build.md. -/
  | bfmtVarLvar (d : BitVec 32)
  /-- BFMT.VAR_LLVAR, R272 of spec/45_build.md. -/
  | bfmtVarLlvar (d : BitVec 32)
  /-- BFMT.VAR_LLLVAR, R272 of spec/45_build.md. -/
  | bfmtVarLllvar (d : BitVec 32)
  /-- BPFX.ASCII_LVAR, R274 of spec/45_build.md. -/
  | bpfxAsciiLvar (d : BitVec 32)
  /-- BPFX.ASCII_LLVAR, R274 of spec/45_build.md. -/
  | bpfxAsciiLlvar (d : BitVec 32)
  /-- BPFX.ASCII_LLLVAR, R274 of spec/45_build.md. -/
  | bpfxAsciiLllvar (d : BitVec 32)
  /-- BPFX.BCD_LVAR, R275 of spec/45_build.md. -/
  | bpfxBcdLvar (d : BitVec 32)
  /-- BPFX.BCD_LLVAR, R275 of spec/45_build.md. -/
  | bpfxBcdLlvar (d : BitVec 32)
  /-- BPFX.BCD_LLLVAR, R275 of spec/45_build.md. -/
  | bpfxBcdLllvar (d : BitVec 32)
  /-- BPFX.BIN_LVAR, R276 of spec/45_build.md. -/
  | bpfxBinLvar (d : BitVec 32)
  /-- BPFX.BIN_LLVAR, R276 of spec/45_build.md. -/
  | bpfxBinLlvar (d : BitVec 32)
  /-- BPFX.BIN_LLLVAR, R276 of spec/45_build.md. -/
  | bpfxBinLllvar (d : BitVec 32)
  /-- BEMIT.ASCII, R280 of spec/45_build.md. -/
  | bemitAscii (d : BitVec 32)
  /-- BEMIT.BCD, R281 of spec/45_build.md. -/
  | bemitBcd (d : BitVec 32)
  /-- BEMIT.BIN, R282 of spec/45_build.md. -/
  | bemitBin (d : BitVec 32)
deriving DecidableEq, Repr

end Sys2Proof
end

