-- ==== Sys2Proof/WellFormed.lean ====
section
/-! DEFINITION. Well-formed instructions. A command's operands are exactly what its word can carry, so every
command is well formed: a key or a bit value outside a command's range is an instruction that the framer
rejects when it runs it (spec/46_accessors.md R300), not an ill-formed one. A micro-operation is well formed
when its descriptor word is one that selects it: the mask and match of its row of spec/opcode_table.json. -/

namespace Sys2Proof

/-- The word `d` agrees with a row's `matchBits` wherever the row's `mask` is 1. -/
def rowMatches (mask matchBits d : Word) : Bool := d &&& mask == matchBits

/-- The instruction is one that a word stands for. -/
def Instr.WellFormed : Instr → Bool
  | .init _ _ => true
  | .decode => true
  | .build => true
  | .setStrict _ => true
  | .getStrict => true
  | .setMti => true
  | .getMti => true
  | .setBit _ _ => true
  | .getBit _ => true
  | .setFieldTxt _ => true
  | .setFieldInt _ => true
  | .getField _ => true
  | .getDenc _ => true
  | .getLdisc _ => true
  | .getClass _ => true
  | .getLenc _ => true
  | .getMaxlen _ => true
  | .getDesc _ => true
  | .bcdDecode => true
  | .bcdEncode => true
  | .bcdToInt => true
  | .intToBcd => true
  | .hexEncode => true
  | .hexDecode => true
  | .dlenFixed d => rowMatches 0x81800000 0x80000000 d
  | .dlenAsciiLvar d => rowMatches 0x81E00000 0x80A00000 d
  | .dlenAsciiLlvar d => rowMatches 0x81E00000 0x81200000 d
  | .dlenAsciiLllvar d => rowMatches 0x81E00000 0x81A00000 d
  | .dlenBcdLvar d => rowMatches 0x81E00000 0x80C00000 d
  | .dlenBcdLlvar d => rowMatches 0x81E00000 0x81400000 d
  | .dlenBcdLllvar d => rowMatches 0x81E00000 0x81C00000 d
  | .dlenBinLvar d => rowMatches 0x81E00000 0x80E00000 d
  | .dlenBinLlvar d => rowMatches 0x81E00000 0x81600000 d
  | .dlenBinLllvar d => rowMatches 0x81E00000 0x81E00000 d
  | .dvalAsciiN d => rowMatches 0xFE000000 0x8A000000 d
  | .dvalAsciiTA d => rowMatches 0xFE000000 0x82000000 d
  | .dvalAsciiTS d => rowMatches 0xFE000000 0x92000000 d
  | .dvalAsciiTAn d => rowMatches 0xFE000000 0x9A000000 d
  | .dvalAsciiTAs d => rowMatches 0xFE000000 0xA2000000 d
  | .dvalAsciiTNs d => rowMatches 0xFE000000 0xAA000000 d
  | .dvalAsciiTAns d => rowMatches 0xFE000000 0xB2000000 d
  | .dvalAsciiTB d => rowMatches 0xFE000000 0xBA000000 d
  | .dvalAsciiTZ d => rowMatches 0xFE000000 0xC2000000 d
  | .dvalBcdN d => rowMatches 0xFE000000 0x8C000000 d
  | .dvalBcdZ d => rowMatches 0xFE000000 0xC4000000 d
  | .dvalBinN d => rowMatches 0xFE000000 0x8E000000 d
  | .dvalBinB d => rowMatches 0xFE000000 0xBE000000 d
  | .dvalBinZ d => rowMatches 0xFE000000 0xC6000000 d
  | .bfmtFixedN d => rowMatches 0xF9800000 0x88000000 d
  | .bfmtFixedTA d => rowMatches 0xF9800000 0x80000000 d
  | .bfmtFixedTS d => rowMatches 0xF9800000 0x90000000 d
  | .bfmtFixedTAn d => rowMatches 0xF9800000 0x98000000 d
  | .bfmtFixedTAs d => rowMatches 0xF9800000 0xA0000000 d
  | .bfmtFixedTNs d => rowMatches 0xF9800000 0xA8000000 d
  | .bfmtFixedTAns d => rowMatches 0xF9800000 0xB0000000 d
  | .bfmtFixedPB d => rowMatches 0xF9800000 0xB8000000 d
  | .bfmtFixedPZ d => rowMatches 0xF9800000 0xC0000000 d
  | .bfmtVarLvar d => rowMatches 0x81800000 0x80800000 d
  | .bfmtVarLlvar d => rowMatches 0x81800000 0x81000000 d
  | .bfmtVarLllvar d => rowMatches 0x81800000 0x81800000 d
  | .bpfxAsciiLvar d => rowMatches 0x81E00000 0x80A00000 d
  | .bpfxAsciiLlvar d => rowMatches 0x81E00000 0x81200000 d
  | .bpfxAsciiLllvar d => rowMatches 0x81E00000 0x81A00000 d
  | .bpfxBcdLvar d => rowMatches 0x81E00000 0x80C00000 d
  | .bpfxBcdLlvar d => rowMatches 0x81E00000 0x81400000 d
  | .bpfxBcdLllvar d => rowMatches 0x81E00000 0x81C00000 d
  | .bpfxBinLvar d => rowMatches 0x81E00000 0x80E00000 d
  | .bpfxBinLlvar d => rowMatches 0x81E00000 0x81600000 d
  | .bpfxBinLllvar d => rowMatches 0x81E00000 0x81E00000 d
  | .bemitAscii d => rowMatches 0x86000000 0x82000000 d
  | .bemitBcd d => rowMatches 0x86000000 0x84000000 d
  | .bemitBin d => rowMatches 0x86000000 0x86000000 d

end Sys2Proof
end

