-- ==== Sys2Proof/Decode.lean ====
section
/-! DEFINITION. Decoding: the fields of a command word (spec/30_encoding.md R90, R91) and of a descriptor word
(R100 to R103), the opcode map (R92), the dispatch of descriptors to micro-operations (R105), and the encoder. -/

namespace Sys2Proof

/-! ### Fields of a command word (R90, R91) -/

/-- `op`, bits 31:24. -/
def cmdOp (w : Word) : BitVec 8 := w.extractLsb' 24 8

/-- `key`, bits 23:16. -/
def cmdKey (w : Word) : BitVec 8 := w.extractLsb' 16 8

/-- `arg`, bits 15:0. -/
def cmdArg (w : Word) : BitVec 16 := w.extractLsb' 0 16

/-! ### Fields of a descriptor word (R100) -/

/-- `V`, bit 31: the key has an entry. -/
def descV (d : Word) : Bool := d.getLsbD 31

/-- `CLS`, bits 30:27. -/
def descCls (d : Word) : BitVec 4 := d.extractLsb' 27 4

/-- `DENC`, bits 26:25. -/
def descDenc (d : Word) : BitVec 2 := d.extractLsb' 25 2

/-- `LDISC`, bits 24:23. -/
def descLdisc (d : Word) : BitVec 2 := d.extractLsb' 23 2

/-- `LENC`, bits 22:21. -/
def descLenc (d : Word) : BitVec 2 := d.extractLsb' 21 2

/-- `MAXLEN`, bits 15:0. Bits 20:16 are reserved and ignored (R104). -/
def descMaxlen (d : Word) : BitVec 16 := d.extractLsb' 0 16

/-- The class of a class code; codes 9 to 15 are illegal (R101). -/
def classOfCode (c : BitVec 4) : Option Class :=
  match c.toNat with
  | 0 => some .clsA
  | 1 => some .clsN
  | 2 => some .clsS
  | 3 => some .clsAn
  | 4 => some .clsAs
  | 5 => some .clsNs
  | 6 => some .clsAns
  | 7 => some .clsB
  | 8 => some .clsZ
  | _ => none

/-- The encoding of an encoding code; code 0 is "not set" (R102). -/
def encOfCode (c : BitVec 2) : Option Enc :=
  match c.toNat with
  | 1 => some .ascii
  | 2 => some .bcd
  | 3 => some .bin
  | _ => none

/-- The discipline of a discipline code (R103). -/
def discOfCode (c : BitVec 2) : Disc :=
  match c.toNat with
  | 0 => .fixed
  | 1 => .lvar
  | 2 => .llvar
  | _ => .lllvar

/-! ### Decoding -/

/-- Why a word is no instruction. -/
inductive DecodeError where
  /-- `op` is not in the opcode map: the framer answers REJECT(RJ_BAD_OPCODE) (R92, R96). -/
  | badOpcode (op : BitVec 8)
  /-- `V = 0`: the descriptor is no entry (R100). -/
  | noEntry
  /-- No row of this stage matches the descriptor (R104, R239). -/
  | noRow (st : DStage)
deriving DecidableEq, Repr

/-- The opcode map (R92). Bits that a command does not read are ignored (R96). -/
def decodeCommand (w : Word) : Except DecodeError Instr :=
  match (cmdOp w).toNat with
  | 0x01 => .ok (.init ((cmdArg w).extractLsb' 0 2) ((cmdArg w).getLsbD 8))
  | 0x02 => .ok .decode
  | 0x03 => .ok .build
  | 0x04 => .ok (.setStrict (cmdArg w))
  | 0x05 => .ok .getStrict
  | 0x10 => .ok .setMti
  | 0x11 => .ok .getMti
  | 0x12 => .ok (.setBit (cmdKey w) (cmdArg w))
  | 0x13 => .ok (.getBit (cmdKey w))
  | 0x14 => .ok (.setFieldTxt (cmdKey w))
  | 0x15 => .ok (.setFieldInt (cmdKey w))
  | 0x16 => .ok (.getField (cmdKey w))
  | 0x20 => .ok (.getDenc (cmdKey w))
  | 0x21 => .ok (.getLdisc (cmdKey w))
  | 0x22 => .ok (.getClass (cmdKey w))
  | 0x23 => .ok (.getLenc (cmdKey w))
  | 0x24 => .ok (.getMaxlen (cmdKey w))
  | 0x25 => .ok (.getDesc (cmdKey w))
  | 0x30 => .ok .bcdDecode
  | 0x31 => .ok .bcdEncode
  | 0x32 => .ok .bcdToInt
  | 0x33 => .ok .intToBcd
  | 0x34 => .ok .hexEncode
  | 0x35 => .ok .hexDecode
  | _ => .error (.badOpcode (cmdOp w))

/-- The dispatch table (R105): the micro-operation that a descriptor selects at a stage, read from `LDISC` and
`LENC` (length stages), `DENC` and `CLS` (value stages), `LDISC` and `CLS` (format stage), `DENC` (emit stage). -/
def decodeMicro (st : DStage) (d : Word) : Except DecodeError Instr :=
  if !descV d then .error .noEntry
  else
    match st with
    | .dlen =>
      match discOfCode (descLdisc d), encOfCode (descLenc d) with
      | .fixed, _ => .ok (.dlenFixed d)
      | .lvar, some .ascii => .ok (.dlenAsciiLvar d)
      | .llvar, some .ascii => .ok (.dlenAsciiLlvar d)
      | .lllvar, some .ascii => .ok (.dlenAsciiLllvar d)
      | .lvar, some .bcd => .ok (.dlenBcdLvar d)
      | .llvar, some .bcd => .ok (.dlenBcdLlvar d)
      | .lllvar, some .bcd => .ok (.dlenBcdLllvar d)
      | .lvar, some .bin => .ok (.dlenBinLvar d)
      | .llvar, some .bin => .ok (.dlenBinLlvar d)
      | .lllvar, some .bin => .ok (.dlenBinLllvar d)
      | _, none => .error (.noRow .dlen)
    | .dval =>
      match encOfCode (descDenc d), classOfCode (descCls d) with
      | some .ascii, some .clsN => .ok (.dvalAsciiN d)
      | some .ascii, some .clsA => .ok (.dvalAsciiTA d)
      | some .ascii, some .clsS => .ok (.dvalAsciiTS d)
      | some .ascii, some .clsAn => .ok (.dvalAsciiTAn d)
      | some .ascii, some .clsAs => .ok (.dvalAsciiTAs d)
      | some .ascii, some .clsNs => .ok (.dvalAsciiTNs d)
      | some .ascii, some .clsAns => .ok (.dvalAsciiTAns d)
      | some .ascii, some .clsB => .ok (.dvalAsciiTB d)
      | some .ascii, some .clsZ => .ok (.dvalAsciiTZ d)
      | some .bcd, some .clsN => .ok (.dvalBcdN d)
      | some .bcd, some .clsZ => .ok (.dvalBcdZ d)
      | some .bin, some .clsN => .ok (.dvalBinN d)
      | some .bin, some .clsB => .ok (.dvalBinB d)
      | some .bin, some .clsZ => .ok (.dvalBinZ d)
      | _, _ => .error (.noRow .dval)
    | .bfmt =>
      match discOfCode (descLdisc d), classOfCode (descCls d) with
      | .lvar, _ => .ok (.bfmtVarLvar d)
      | .llvar, _ => .ok (.bfmtVarLlvar d)
      | .lllvar, _ => .ok (.bfmtVarLllvar d)
      | .fixed, some .clsN => .ok (.bfmtFixedN d)
      | .fixed, some .clsA => .ok (.bfmtFixedTA d)
      | .fixed, some .clsS => .ok (.bfmtFixedTS d)
      | .fixed, some .clsAn => .ok (.bfmtFixedTAn d)
      | .fixed, some .clsAs => .ok (.bfmtFixedTAs d)
      | .fixed, some .clsNs => .ok (.bfmtFixedTNs d)
      | .fixed, some .clsAns => .ok (.bfmtFixedTAns d)
      | .fixed, some .clsB => .ok (.bfmtFixedPB d)
      | .fixed, some .clsZ => .ok (.bfmtFixedPZ d)
      | .fixed, none => .error (.noRow .bfmt)
    | .bpfx =>
      match discOfCode (descLdisc d), encOfCode (descLenc d) with
      | .lvar, some .ascii => .ok (.bpfxAsciiLvar d)
      | .llvar, some .ascii => .ok (.bpfxAsciiLlvar d)
      | .lllvar, some .ascii => .ok (.bpfxAsciiLllvar d)
      | .lvar, some .bcd => .ok (.bpfxBcdLvar d)
      | .llvar, some .bcd => .ok (.bpfxBcdLlvar d)
      | .lllvar, some .bcd => .ok (.bpfxBcdLllvar d)
      | .lvar, some .bin => .ok (.bpfxBinLvar d)
      | .llvar, some .bin => .ok (.bpfxBinLlvar d)
      | .lllvar, some .bin => .ok (.bpfxBinLllvar d)
      | .fixed, _ => .error (.noRow .bpfx)
      | _, none => .error (.noRow .bpfx)
    | .bemit =>
      match encOfCode (descDenc d) with
      | some .ascii => .ok (.bemitAscii d)
      | some .bcd => .ok (.bemitBcd d)
      | some .bin => .ok (.bemitBin d)
      | none => .error (.noRow .bemit)

/-- Decoding of a word in the format in which it is read: a word written to `CMD` (R92), or the descriptor of the
field being processed, read at one stage (R105). -/
def decodeAs (f : Format) (w : Word) : Except DecodeError Instr :=
  match f with
  | .c => decodeCommand w
  | .d st => decodeMicro st w

/-! ### A bare word

A word of the opcode table does not say at which stage it is read, and one descriptor matches a row of every
stage (R105). A word on its own is read thus (log 9): with bit 31 clear it is a command word; with bit 31 set
it is a descriptor, read at the first stage of the list below that has a row for it. -/

/-- The order in which the stages are tried for a bare descriptor word. -/
def bareStages : List DStage := [.dval, .bemit, .bpfx, .bfmt, .dlen]

/-- The first stage of a list at which the descriptor selects a micro-operation, with it. -/
def firstStage (d : Word) : List DStage → Option Instr
  | [] => none
  | st :: rest =>
    match decodeMicro st d with
    | .ok i => some i
    | .error _ => firstStage d rest

/-- The instruction a bare word stands for (log 9). -/
def decodeWord (w : Word) : Option Instr :=
  if descV w then firstStage w bareStages
  else
    match decodeCommand w with
    | .ok i => some i
    | .error _ => none

/-- The instruction that the decoder reads from an instruction whose bits are `w` (the host's interface). Every
instruction is one 32-bit word, written to `CMD` or read from CATROM whole (R90, R100), so no byte order enters. -/
def decodeTableWord (nbits w : Nat) : Option Instr :=
  if nbits ≤ 32 ∧ w < 2 ^ 32 then decodeWord (BitVec.ofNat 32 w) else none

/-! ### The encoder -/

/-- The format in which an instruction's word is read. -/
def Instr.format : Instr → Format
  | .init _ _ => .c
  | .decode => .c
  | .build => .c
  | .setStrict _ => .c
  | .getStrict => .c
  | .setMti => .c
  | .getMti => .c
  | .setBit _ _ => .c
  | .getBit _ => .c
  | .setFieldTxt _ => .c
  | .setFieldInt _ => .c
  | .getField _ => .c
  | .getDenc _ => .c
  | .getLdisc _ => .c
  | .getClass _ => .c
  | .getLenc _ => .c
  | .getMaxlen _ => .c
  | .getDesc _ => .c
  | .bcdDecode => .c
  | .bcdEncode => .c
  | .bcdToInt => .c
  | .intToBcd => .c
  | .hexEncode => .c
  | .hexDecode => .c
  | .dlenFixed _ => .d .dlen
  | .dlenAsciiLvar _ => .d .dlen
  | .dlenAsciiLlvar _ => .d .dlen
  | .dlenAsciiLllvar _ => .d .dlen
  | .dlenBcdLvar _ => .d .dlen
  | .dlenBcdLlvar _ => .d .dlen
  | .dlenBcdLllvar _ => .d .dlen
  | .dlenBinLvar _ => .d .dlen
  | .dlenBinLlvar _ => .d .dlen
  | .dlenBinLllvar _ => .d .dlen
  | .dvalAsciiN _ => .d .dval
  | .dvalAsciiTA _ => .d .dval
  | .dvalAsciiTS _ => .d .dval
  | .dvalAsciiTAn _ => .d .dval
  | .dvalAsciiTAs _ => .d .dval
  | .dvalAsciiTNs _ => .d .dval
  | .dvalAsciiTAns _ => .d .dval
  | .dvalAsciiTB _ => .d .dval
  | .dvalAsciiTZ _ => .d .dval
  | .dvalBcdN _ => .d .dval
  | .dvalBcdZ _ => .d .dval
  | .dvalBinN _ => .d .dval
  | .dvalBinB _ => .d .dval
  | .dvalBinZ _ => .d .dval
  | .bfmtFixedN _ => .d .bfmt
  | .bfmtFixedTA _ => .d .bfmt
  | .bfmtFixedTS _ => .d .bfmt
  | .bfmtFixedTAn _ => .d .bfmt
  | .bfmtFixedTAs _ => .d .bfmt
  | .bfmtFixedTNs _ => .d .bfmt
  | .bfmtFixedTAns _ => .d .bfmt
  | .bfmtFixedPB _ => .d .bfmt
  | .bfmtFixedPZ _ => .d .bfmt
  | .bfmtVarLvar _ => .d .bfmt
  | .bfmtVarLlvar _ => .d .bfmt
  | .bfmtVarLllvar _ => .d .bfmt
  | .bpfxAsciiLvar _ => .d .bpfx
  | .bpfxAsciiLlvar _ => .d .bpfx
  | .bpfxAsciiLllvar _ => .d .bpfx
  | .bpfxBcdLvar _ => .d .bpfx
  | .bpfxBcdLlvar _ => .d .bpfx
  | .bpfxBcdLllvar _ => .d .bpfx
  | .bpfxBinLvar _ => .d .bpfx
  | .bpfxBinLlvar _ => .d .bpfx
  | .bpfxBinLllvar _ => .d .bpfx
  | .bemitAscii _ => .d .bemit
  | .bemitBcd _ => .d .bemit
  | .bemitBin _ => .d .bemit

/-- A command word from its fields (R90). -/
def cmdWord (op : BitVec 8) (key : BitVec 8) (arg : BitVec 16) : Word := op ++ key ++ arg

/-- The `arg` field of INIT: bit 8 is the strict bit, bits 1:0 are the catalog number (R91). -/
def initArg (cat : BitVec 2) (strict : Bool) : BitVec 16 :=
  (0 : BitVec 7) ++ BitVec.ofBool strict ++ (0 : BitVec 6) ++ cat

/-- The word of an instruction: a command word with 0 in the bits the command ignores (R92, R96), or the descriptor
word of a micro-operation. -/
def encode : Instr → Word
  | .init cat strict => cmdWord 0x01 0 (initArg cat strict)
  | .decode => cmdWord 0x02 0 0
  | .build => cmdWord 0x03 0 0
  | .setStrict arg => cmdWord 0x04 0 arg
  | .getStrict => cmdWord 0x05 0 0
  | .setMti => cmdWord 0x10 0 0
  | .getMti => cmdWord 0x11 0 0
  | .setBit key arg => cmdWord 0x12 key arg
  | .getBit key => cmdWord 0x13 key 0
  | .setFieldTxt key => cmdWord 0x14 key 0
  | .setFieldInt key => cmdWord 0x15 key 0
  | .getField key => cmdWord 0x16 key 0
  | .getDenc key => cmdWord 0x20 key 0
  | .getLdisc key => cmdWord 0x21 key 0
  | .getClass key => cmdWord 0x22 key 0
  | .getLenc key => cmdWord 0x23 key 0
  | .getMaxlen key => cmdWord 0x24 key 0
  | .getDesc key => cmdWord 0x25 key 0
  | .bcdDecode => cmdWord 0x30 0 0
  | .bcdEncode => cmdWord 0x31 0 0
  | .bcdToInt => cmdWord 0x32 0 0
  | .intToBcd => cmdWord 0x33 0 0
  | .hexEncode => cmdWord 0x34 0 0
  | .hexDecode => cmdWord 0x35 0 0
  | .dlenFixed d => d
  | .dlenAsciiLvar d => d
  | .dlenAsciiLlvar d => d
  | .dlenAsciiLllvar d => d
  | .dlenBcdLvar d => d
  | .dlenBcdLlvar d => d
  | .dlenBcdLllvar d => d
  | .dlenBinLvar d => d
  | .dlenBinLlvar d => d
  | .dlenBinLllvar d => d
  | .dvalAsciiN d => d
  | .dvalAsciiTA d => d
  | .dvalAsciiTS d => d
  | .dvalAsciiTAn d => d
  | .dvalAsciiTAs d => d
  | .dvalAsciiTNs d => d
  | .dvalAsciiTAns d => d
  | .dvalAsciiTB d => d
  | .dvalAsciiTZ d => d
  | .dvalBcdN d => d
  | .dvalBcdZ d => d
  | .dvalBinN d => d
  | .dvalBinB d => d
  | .dvalBinZ d => d
  | .bfmtFixedN d => d
  | .bfmtFixedTA d => d
  | .bfmtFixedTS d => d
  | .bfmtFixedTAn d => d
  | .bfmtFixedTAs d => d
  | .bfmtFixedTNs d => d
  | .bfmtFixedTAns d => d
  | .bfmtFixedPB d => d
  | .bfmtFixedPZ d => d
  | .bfmtVarLvar d => d
  | .bfmtVarLlvar d => d
  | .bfmtVarLllvar d => d
  | .bpfxAsciiLvar d => d
  | .bpfxAsciiLlvar d => d
  | .bpfxAsciiLllvar d => d
  | .bpfxBcdLvar d => d
  | .bpfxBcdLlvar d => d
  | .bpfxBcdLllvar d => d
  | .bpfxBinLvar d => d
  | .bpfxBinLlvar d => d
  | .bpfxBinLllvar d => d
  | .bemitAscii d => d
  | .bemitBcd d => d
  | .bemitBin d => d

end Sys2Proof
end

