-- ==== Sys2Proof/Machine/Sparse.lean ====
section
/-! DEFINITION. Sparse arrays as plain data: a list of (index, value) pairs with strictly rising indices and no
entry equal to the value `d` that an unlisted index reads as. The four byte buffers (spec/20_memory.md R60), the
value slots `VAL[2..128]` (spec/10_state.md R24) and the catalogs (spec/20_memory.md R65) are held so. -/

namespace Sys2Proof.Machine

/-- The value at index `k`; `d` where nothing is listed. -/
def sparseGet {α : Type} (d : α) : List (Nat × α) → Nat → α
  | [], _ => d
  | (k', v) :: rest, k => if k' = k then v else sparseGet d rest k

/-- Put an entry before the first entry of a greater index. -/
def sparseInsert {α : Type} (k : Nat) (v : α) : List (Nat × α) → List (Nat × α)
  | [] => [(k, v)]
  | (k', v') :: rest => if k < k' then (k, v) :: (k', v') :: rest else (k', v') :: sparseInsert k v rest

/-- Take away every entry of index `k`. -/
def sparseErase {α : Type} (k : Nat) : List (Nat × α) → List (Nat × α)
  | [] => []
  | (k', v) :: rest => if k' = k then sparseErase k rest else (k', v) :: sparseErase k rest

/-- Write `v` at index `k`; writing `d` takes the entry away. -/
def sparseSet {α : Type} [DecidableEq α] (d : α) (m : List (Nat × α)) (k : Nat) (v : α) : List (Nat × α) :=
  if v = d then sparseErase k m else sparseInsert k v (sparseErase k m)

/-- The canonical form: indices strictly rising, no entry equal to `d`. -/
abbrev SparseWf {α : Type} [DecidableEq α] (d : α) (m : List (Nat × α)) : Prop :=
  m.Pairwise (fun a b => a.1 < b.1) ∧ ∀ p ∈ m, p.2 ≠ d

end Sys2Proof.Machine
end

