-- ==== Sys2Proof/Machine/CatRom.lean ====
section
/-! DEFINITION. The catalog memory CATROM (spec/20_memory.md R65): three catalogs of 129 entries, each a
descriptor word and a description; and the facts that the source pins about the built-in catalogs
(spec/41_catalog.md R153 to R156), to which the parameter CATROM is subject (spec/00_scope.md R5). -/

namespace Sys2Proof.Machine

/-- One entry: the descriptor word (R100) and the description, an opaque byte string (R175). -/
structure CatEntry where
  word : BitVec 32
  desc : List (BitVec 8)
deriving DecidableEq, Repr, Inhabited

/-- What a key that is not listed holds: a descriptor with `V = 0`, no entry (R100). -/
def noCatEntry : CatEntry := { word := 0, desc := [] }

/-- The three built-in catalogs: 0 ASCII-1987, 1 BCD-1987, 2 the BIC variant (spec/10_state.md R26). -/
structure CatRom where
  cat0 : List (Nat × CatEntry)
  cat1 : List (Nat × CatEntry)
  cat2 : List (Nat × CatEntry)
deriving DecidableEq, Repr, Inhabited

/-- The number of keys, NKEY (spec/00_scope.md R5). -/
def nKey : Nat := 129

/-- The entry at (catalog, key). Catalog number 3 is no catalog (R26): it has no entry. -/
def catRomEntry (rom : CatRom) (c : BitVec 2) (k : Nat) : CatEntry :=
  if k < nKey then
    match c.toNat with
    | 0 => sparseGet noCatEntry rom.cat0 k
    | 1 => sparseGet noCatEntry rom.cat1 k
    | 2 => sparseGet noCatEntry rom.cat2 k
    | _ => noCatEntry
  else noCatEntry

/-- The descriptor word at (catalog, key). -/
def catRomWord (rom : CatRom) (c : BitVec 2) (k : Nat) : Word := (catRomEntry rom c k).word

/-- R153: every catalog has an entry at keys 0 and 1, with an encoding the header can carry; catalog 0 has ASCII at
both, catalog 1 has BCD at key 0. -/
def pinnedHeaders (rom : CatRom) : Bool :=
  [0, 1, 2].all (fun c =>
    descV (catRomWord rom c 0) && descV (catRomWord rom c 1) &&
      (descDenc (catRomWord rom c 0) == 2 || descDenc (catRomWord rom c 0) == 1) &&
      (descDenc (catRomWord rom c 1) == 3 || descDenc (catRomWord rom c 1) == 1)) &&
    descDenc (catRomWord rom 0 0) == 1 && descDenc (catRomWord rom 0 1) == 1 &&
    descDenc (catRomWord rom 1 0) == 2

/-- R154: in catalog 0, field 3 is `n`, ASCII, FIXED, 6, and field 39 is `a` or `an`, ASCII, FIXED, 2. The rule gives
the whole descriptor words. -/
def pinnedFields (rom : CatRom) : Bool :=
  catRomWord rom 0 3 == 0x8A000006 &&
    (catRomWord rom 0 39 == 0x82000002 || catRomWord rom 0 39 == 0x9A000002)

/-- Bits 20:16 of a descriptor word, reserved (R100). -/
def descReserved (d : Word) : BitVec 5 := d.extractLsb' 16 5

/-- R100: the reserved bits are 0 in every entry. -/
def pinnedReserved (rom : CatRom) : Bool :=
  (List.range nKey).all (fun k => [0, 1, 2].all (fun c =>
    !descV (catRomWord rom c k) || descReserved (catRomWord rom c k) == 0))

/-- An entry but for `CLS`, `DENC` and `LENC`: `V`, `LDISC`, the reserved bits, `MAXLEN` and the description. -/
def entryShape (e : CatEntry) : Bool × BitVec 2 × BitVec 5 × BitVec 16 × List (BitVec 8) :=
  (descV e.word, descLdisc e.word, descReserved e.word, descMaxlen e.word, e.desc)

/-- R155: the entries of a key in the three catalogs are equal but for `CLS`, `DENC` and `LENC`. That "only" these may
differ also holds the descriptions equal is read from the rule's words (log 23). -/
def pinnedShape (rom : CatRom) : Bool :=
  (List.range nKey).all (fun k => [1, 2].all (fun c =>
    entryShape (catRomEntry rom 0 k) == entryShape (catRomEntry rom c k)))

/-- R156: in catalog 1 some fields with `MAXLEN = 999` have class `b` where catalog 0 has another class. Fields are the
data keys 2..128 (R150), the headers are none. -/
def pinnedReclassified (rom : CatRom) : Bool :=
  (List.range' 2 127).any (fun k =>
    descV (catRomWord rom 1 k) && descMaxlen (catRomWord rom 1 k) == 999 &&
      descCls (catRomWord rom 1 k) == 7 && descCls (catRomWord rom 0 k) != 7)

/-- The constraints on the parameter CATROM (R5: "subject to 41_catalog.md rules R153 to R156"), and the reserved bits
(R100). -/
def catRomPinned (rom : CatRom) : Bool :=
  pinnedHeaders rom && pinnedFields rom && pinnedReserved rom && pinnedShape rom && pinnedReclassified rom

/-- A small catalog memory that meets the constraints. It only shows that they can be met; nothing else uses it. -/
def catRomWitness : CatRom where
  cat0 := [(0, ⟨0x8A000004, []⟩), (1, ⟨0xBA000008, []⟩), (3, ⟨0x8A000006, []⟩), (39, ⟨0x9A000002, []⟩),
    (48, ⟨0x9BA003E7, []⟩)]
  cat1 := [(0, ⟨0x8C000004, []⟩), (1, ⟨0xBE000008, []⟩), (3, ⟨0x8C000006, []⟩), (39, ⟨0x9A000002, []⟩),
    (48, ⟨0xBFC003E7, []⟩)]
  cat2 := [(0, ⟨0x8A000004, []⟩), (1, ⟨0xBA000008, []⟩), (3, ⟨0x8A000006, []⟩), (39, ⟨0x9A000002, []⟩),
    (48, ⟨0x9BA003E7, []⟩)]

/-- A catalog memory together with the fact that it meets the constraints. -/
structure PinnedCatRom where
  rom : CatRom := catRomWitness
  pinned : catRomPinned rom = true := by decide
deriving Inhabited

end Sys2Proof.Machine
end

