-- ==== Sys2Proof/Config.lean ====
section
/-! DEFINITION. The parameters of the framer (spec/00_scope.md R5) and the values that the spec leaves free. -/

namespace Sys2Proof.Config

/-- The parameter CATROM: the contents of the three built-in catalogs, OPEN, subject to R153 to R156 of
spec/41_catalog.md. It has no body, so no proof can see its contents (log 1). -/
opaque catRom : Sys2Proof.Machine.PinnedCatRom

/-- A byte of TXBUF or RESBUF that the spec leaves unspecified (R62, R64, R347): a free value, a fresh one for every
value of the counter it is applied to. It has no body (log 4). -/
opaque freeByte : Nat → BitVec 8

/-- The meaning of a length prefix whose encoding is BIN (R5, BIN_LEN_MODE). -/
inductive BinLenMode where
  /-- 1, 2 or 3 bytes, big-endian: the value this spec fixes. -/
  | beBytes
  /-- SPEC_ERROR(SE_HDR_ENC) on both paths. -/
  | refuse
deriving DecidableEq, Repr

/-- How a setter measures a value against the maximum (R5, SET_LEN_MEASURE). -/
inductive SetLenMeasure where
  /-- In the units of the field's maximum: the value this spec fixes. -/
  | contentUnits
  /-- In characters of the text. -/
  | textChars
deriving DecidableEq, Repr

/-- The parameters that R5 leaves open beside CATROM. A framer is made with one value of them and no step changes it
(log 2). -/
structure Params where
  /-- BUF_CAP, the capacity in bytes of each of the four buffers. -/
  bufCap : Nat
  binLenMode : BinLenMode
  setLenMeasure : SetLenMeasure
deriving DecidableEq, Repr

/-- The values this spec fixes: BUF_CAP = 65535, be_bytes, content_units (R5). -/
def defaultParams : Params :=
  { bufCap := 65535, binLenMode := .beBytes, setLenMeasure := .contentUnits }

end Sys2Proof.Config
end

