-- ==== Sys2Proof/Machine/State.lean ====
section
/-! DEFINITION. The state of the framer as plain data (spec/10_state.md R20 and the table of R50), the reasons a step
can stop, and the state after reset. -/

namespace Sys2Proof.Machine

/-- The outcome of a command, STATUS.KIND (R7, R38, R341). -/
inductive Kind where
  | ok | specError | parseError | buildError | reject
deriving DecidableEq, Repr

/-- The cause of a failure, STATUS.CAUSE: the named codes of spec/60_exceptions.md R342. -/
inductive Cause where
  | none
  | seUnbound | seNoCatalog | seNoEntry | seChkLenc | seChkClass | seChkAscii | seChkBinBcd | seChkDenc | seHdrEnc
  | peUnderrun
  | mtiNonnum | mtiStrictClass | mtiStrictOrigin | mtiVersion | mtiClass | mtiFunction | mtiOrigin
  | peBitmapHex | peLenNonnum | peLenTooLarge | peValue
  | beMtiUnset | beMtiInvalid | beNoValue | beTooLong | beFixedLen | bePrefixOvf | beValueEnc | beTxOvf
  | rjBadOpcode | rjKeyRange | rjBitValue | rjMtiLen | rjValueTooLong | rjOperand
deriving DecidableEq, Repr

/-- The sequencer's phase, PHASE (R30). -/
inductive Phase where
  | idle | start | mti | bitmap | field | done
deriving DecidableEq, Repr

/-- Which command the sequencer runs: the pseudocode's "if the command is BUILD" (R340). The model's own (log 10). -/
inductive Running where
  | none | decode | build
deriving DecidableEq, Repr

/-- A field value (R7): absent, an unbounded natural number, or a byte string. -/
inductive Value where
  | absent
  | int (n : Nat)
  | text (s : List (BitVec 8))
deriving DecidableEq, Repr

/-- The four characters of the message-type indicator, first on the wire first (R22). -/
structure Mti where
  d0 : BitVec 8
  d1 : BitVec 8
  d2 : BitVec 8
  d3 : BitVec 8
deriving DecidableEq, Repr

/-- The two buffers the host may write (R47). -/
inductive HostBuf where
  | rx | op
deriving DecidableEq, Repr

/-- The four buffers the host may read (R47). -/
inductive AnyBuf where
  | rx | tx | op | res
deriving DecidableEq, Repr

/-- One action of the host at the framer's interface (R35, R47, R380; log 8). -/
inductive HostAction where
  /-- Write the 32-bit value `v` to the register of number `n` (R35); a write of register 0, CMD, is a command. -/
  | writeReg (n : Nat) (v : BitVec 32)
  /-- Read the register of number `n` (R35). -/
  | readReg (n : Nat)
  /-- Write the bytes `bs` to a buffer from address `addr` up (R47, R61, R63). -/
  | writeBuf (b : HostBuf) (addr : Nat) (bs : List (BitVec 8))
  /-- Read one byte of a buffer (R47). -/
  | readBuf (b : AnyBuf) (addr : Nat)
  /-- The reset event from outside the block (R380, R381). -/
  | hwReset
deriving DecidableEq, Repr

/-- A byte buffer: (address, byte) pairs, addresses strictly rising, no entry equal to what an unlisted address reads
as (`unwrittenByte`). -/
abbrev Memory := List Host.Cell

/-- What an address that nothing is listed at reads as. The spec leaves the contents of the buffers after reset
unspecified (R50); DESIGN CHOICE, unsafe (log 3). -/
def unwrittenByte : BitVec 8 := 0

/-- Why the machine stops with a fault. No instruction raises one. -/
inductive Fault where
  /-- Raised by the step when the host names a buffer address at or above BUF_CAP, which does not exist (R60). Safe:
  the spec gives such an access no effect (log 14). -/
  | bufferAddress
  /-- Raised by the step when the host names a register number above 9, which does not exist (R35). Safe (log 14). -/
  | noRegister
deriving DecidableEq, Repr

/-- Why the machine gives no meaning. No instruction raises `hostContract`. -/
inductive Refusal where
  /-- Raised by `exec` for an instruction that has no meaning in this model. Safe. -/
  | notModelled (mnemonic : String)
  /-- Raised by the step when the host, while BUSY = 1, makes an access that R395 forbids and whose effect it leaves
  undefined ("refuse", U5 of spec/93_implementation_defined.md). Safe (log 13). -/
  | hostContract
deriving DecidableEq, Repr

/-- The state of one framer (R20). -/
structure State where
  /-- MTI[0..3] (R22); what they hold while MTI_VALID is 0 is the model's choice (log 5). -/
  mti : Mti
  /-- MTI_VALID (R22). -/
  mtiValid : Bool
  /-- PRES[1..128] (R23): bit 128 - i is PRES[i], so the upper half is the primary bitmap word and the lower half the
  secondary one (R180). -/
  pres : BitVec 128
  /-- VAL[2..128] (R24): the slots that are not Absent. -/
  vals : List (Nat × Value)
  /-- STRICT (R25). -/
  strict : Bool
  /-- CATSEL (R26). -/
  catsel : BitVec 2
  /-- BOUND (R26). -/
  bound : Bool
  /-- PHASE (R30). -/
  phase : Phase
  /-- FIDX (R30). -/
  fidx : Nat
  /-- CURSOR (R30, R32). -/
  cursor : Nat
  /-- STATUS.KIND (R38). -/
  kind : Kind
  /-- STATUS.BUSY (R38). -/
  busy : Bool
  /-- STATUS.CAUSE (R38, R342). -/
  cause : Cause
  /-- STATUS.EKEY (R38); `none` is 0xFF. -/
  ekey : Option Nat
  /-- ERRINFO (R39). -/
  errinfo : BitVec 32
  /-- RXLEN (R40). -/
  rxlen : Nat
  /-- TXLEN (R41). -/
  txlen : Nat
  /-- OPLEN (R42). -/
  oplen : Nat
  /-- RESLEN (R43). -/
  reslen : Nat
  /-- RESVAL (R44). -/
  resval : BitVec 32
  /-- RXBUF (R61). -/
  rxbuf : Memory
  /-- TXBUF (R62). -/
  txbuf : Memory
  /-- OPBUF (R63). -/
  opbuf : Memory
  /-- RESBUF (R64). -/
  resbuf : Memory
  /-- CATROM (R65): read-only, no step writes it (R152; log 1). -/
  catrom : CatRom
  /-- BUF_CAP, BIN_LEN_MODE, SET_LEN_MEASURE (spec/00_scope.md R5): no step writes them (log 2). -/
  params : Config.Params
  /-- Model's own: the command the sequencer runs (log 10). -/
  running : Running
  /-- Model's own: the stage of the field being processed; `none` while its descriptor is still to be read (log 10). -/
  stage : Option DStage
  /-- Model's own: the descriptor word of the field being processed (log 10). -/
  desc : BitVec 32
  /-- Model's own: the length `L` of the field being processed (R223, R263; log 10). -/
  len : Nat
  /-- Model's own: the formatted text `t` of the field being built (R263; log 10). -/
  txt : List (BitVec 8)
  /-- Model's own: the host's pending actions, oldest first (log 8). -/
  host : List HostAction
  /-- Model's own: what the host's last read returned (log 8). -/
  hostData : BitVec 32
  /-- Model's own: the counter that `Config.freeByte` is applied to (log 4). -/
  freeCtr : Nat
deriving DecidableEq, Repr

/-- The state after reset: the table of spec/10_state.md R50. MTI (log 5), FIDX (log 6), the buffers (log 3) and the
model's own fields (log 4, 8, 10) hold the values that the log names; CATROM is the parameter (log 1). -/
def State.reset : State where
  mti := { d0 := 0x30, d1 := 0x30, d2 := 0x30, d3 := 0x30 }
  mtiValid := false
  pres := 0
  vals := []
  strict := false
  catsel := 3
  bound := false
  phase := .idle
  fidx := 0
  cursor := 0
  kind := .ok
  busy := false
  cause := .none
  ekey := none
  errinfo := 0
  rxlen := 0
  txlen := 0
  oplen := 0
  reslen := 0
  resval := 0
  rxbuf := []
  txbuf := []
  opbuf := []
  resbuf := []
  catrom := Config.catRom.rom
  params := Config.defaultParams
  running := .none
  stage := none
  desc := 0
  len := 0
  txt := []
  host := []
  hostData := 0
  freeCtr := 0

end Sys2Proof.Machine
end

