-- ==== Sys2Proof/Machine/Codecs.lean ====
section
/-! DEFINITION. The pure functions: character predicates and decimal conversion (spec/00_scope.md R9, R11), the
primitive codecs (spec/40_primitive_codecs.md R130 to R136), and big-endian numbers (spec/20_memory.md R70). -/

namespace Sys2Proof.Machine

/-! ### Decimal text (R9) -/

/-- `isDigit(c)`: '0' to '9'. -/
def isDigit (c : Byte) : Bool := decide (0x30#8 ≤ c) && decide (c ≤ 0x39#8)

/-- `isNum(s)`: at least one character, all of them digits. -/
def isNum (s : Bytes) : Bool := !s.isEmpty && s.all isDigit

/-- The value of a digit character. -/
def digitVal (c : Byte) : Nat := c.toNat - 48

/-- The number that digit characters spell, the first one most significant; no check. -/
def digitsVal (s : Bytes) : Nat := s.foldl (fun n c => n * 10 + digitVal c) 0

/-- `decToNat(s)`: the number, or failure when `s` is not numeric. -/
def decToNat (s : Bytes) : Option Nat := if isNum s then some (digitsVal s) else none

/-- The digit characters of `n` put in front of `acc`, with at most `fuel` digits. -/
def natToDecAux : Nat → Nat → Bytes → Bytes
  | 0, _, acc => acc
  | fuel + 1, n, acc =>
    if n < 10 then BitVec.ofNat 8 (48 + n) :: acc
    else natToDecAux fuel (n / 10) (BitVec.ofNat 8 (48 + n % 10) :: acc)

/-- `natToDec(n)`: the shortest decimal text of `n`; `natToDec(0) = "0"`. -/
def natToDec (n : Nat) : Bytes := natToDecAux (n + 1) n []

/-- `padL(s, c, w)`: `c` in front up to width `w`; unchanged when `s` is that wide already. -/
def padL (s : Bytes) (c : Byte) (w : Nat) : Bytes := List.replicate (w - s.length) c ++ s

/-- `str(v)`: the source's "stringify the value" (R11). -/
def str : Value → Bytes
  | .absent => []
  | .int n => natToDec n
  | .text s => s

/-! ### Hexadecimal and BCD (R130 to R135) -/

/-- `HEX[n]`: the upper-case hexadecimal character of a nibble (R130). -/
def hexDigit (n : BitVec 4) : Byte :=
  if n.toNat < 10 then BitVec.ofNat 8 (48 + n.toNat) else BitVec.ofNat 8 (55 + n.toNat)

/-- `hexEncode`: two characters a byte, high nibble first (R130). -/
def hexEncode : Bytes → Bytes
  | [] => []
  | b :: rest => hexDigit (b.extractLsb' 4 4) :: hexDigit (b.extractLsb' 0 4) :: hexEncode rest

/-- `nibval(c)`: the nibble of a hexadecimal character of either case (R131). -/
def nibval (c : Byte) : Option (BitVec 4) :=
  if 0x30#8 ≤ c ∧ c ≤ 0x39#8 then some (BitVec.ofNat 4 (c.toNat - 48))
  else if 0x41#8 ≤ c ∧ c ≤ 0x46#8 then some (BitVec.ofNat 4 (c.toNat - 65 + 10))
  else if 0x61#8 ≤ c ∧ c ≤ 0x66#8 then some (BitVec.ofNat 4 (c.toNat - 97 + 10))
  else none

/-- `hexDecode`: fails on odd length and on any character that is not hexadecimal (R131). -/
def hexDecode : Bytes → Option Bytes
  | [] => some []
  | [_] => none
  | a :: b :: rest =>
    match nibval a, nibval b, hexDecode rest with
    | some x, some y, some t => some ((x ++ y : BitVec 8) :: t)
    | _, _, _ => none

/-- `bcdDecode` (R132): nibbles above 9 give letters. -/
def bcdDecode (bs : Bytes) : Bytes := hexEncode bs

/-- `bcdEncode` (R133): an odd count of digits gets a zero nibble in front. -/
def bcdEncode (s : Bytes) : Option Bytes :=
  hexDecode (if s.length % 2 = 1 then 0x30#8 :: s else s)

/-- `bcdToInt` (R134): fails on a nibble above 9 and on the empty string. -/
def bcdToInt (bs : Bytes) : Option Nat := decToNat (bcdDecode bs)

/-- `intToBcd` (R135): two digits of the decimal text a byte. The packing of decimal text never fails, so the empty
string in the last place is never the answer (Laws/Codecs.lean, `bcdEncode_digits`). -/
def intToBcd (n : Nat) : Bytes := (bcdEncode (natToDec n)).getD []

/-- `upper`: 'a' to 'f' become 'A' to 'F' (R136). -/
def upperHex (s : Bytes) : Bytes := s.map (fun c => if 0x61#8 ≤ c ∧ c ≤ 0x66#8 then c - 0x20#8 else c)

/-! ### Numbers of several bytes, most significant byte first (R70) -/

/-- The number that bytes hold, the first one most significant. -/
def beNat (bs : Bytes) : Nat := bs.foldl (fun n b => n * 256 + b.toNat) 0

/-- The `w` low bytes of `n`, most significant first (R276). -/
def beBytes : Nat → Nat → Bytes
  | 0, _ => []
  | w + 1, n => BitVec.ofNat 8 (n / 256 ^ w) :: beBytes w n

/-- `ceil2(n) = (n + 1) div 2` (R10). -/
def ceil2 (n : Nat) : Nat := (n + 1) / 2

end Sys2Proof.Machine
end

