-- ==== Sys2Proof/Machine/Ops.lean ====
section
/-! DEFINITION. The named operations over the state: byte buffers, presence bits and value slots, the access
primitives `take`, `emit`, `operand` and `result` (spec/20_memory.md R66 to R69), the frame of a command
(spec/46_accessors.md R300), and ending a command with an error, `raise` (spec/60_exceptions.md R340), or normally. -/

namespace Sys2Proof.Machine

/-- The outcome of a step or of an instruction. -/
abbrev Out := Host.Outcome State Fault Refusal

/-! ### Byte buffers (R60) -/

/-- The byte at an address. -/
def memRead (m : Memory) (a : Nat) : Byte := sparseGet unwrittenByte m a

/-- Write one byte. -/
def memWrite (m : Memory) (a : Nat) (b : Byte) : Memory := sparseSet unwrittenByte m a b

/-- `MemRead(buf, addr, n)` (R8): the `n` bytes from `addr` up, lowest address first. -/
def memReadRange (m : Memory) (addr n : Nat) : Bytes := (List.range n).map (fun i => memRead m (addr + i))

/-- `MemWrite(buf, addr, n, v)` (R8): `v[0]` at `addr`. -/
def memWriteRange : Memory → Nat → Bytes → Memory
  | m, _, [] => m
  | m, addr, b :: rest => memWriteRange (memWrite m addr b) (addr + 1) rest

/-- The canonical form of a buffer. -/
abbrev MemoryWf (m : Memory) : Prop := SparseWf unwrittenByte m

/-! ### Presence bits and value slots (R23, R24) -/

/-- `PRES[i]`; no bit outside 1..128 exists and such a number reads 0. -/
def presBit (p : BitVec 128) (i : Nat) : Bool := decide (1 ≤ i) && decide (i ≤ 128) && p.getLsbD (128 - i)

/-- The mask of `PRES[i]`. -/
def presMask (i : Nat) : BitVec 128 := if 1 ≤ i ∧ i ≤ 128 then BitVec.twoPow 128 (128 - i) else 0

/-- `PRES[i] <- b`. -/
def presSet (p : BitVec 128) (i : Nat) (b : Bool) : BitVec 128 :=
  if b then p ||| presMask i else p &&& ~~~presMask i

/-- `VAL[f]`. -/
def State.val (s : State) (f : Nat) : Value := sparseGet Value.absent s.vals f

/-- `VAL[f] <- v`. -/
def State.setVal (s : State) (f : Nat) (v : Value) : State :=
  { s with vals := sparseSet Value.absent s.vals f v }

/-- `PRES[i] <- b` in the state. -/
def State.setPres (s : State) (i : Nat) (b : Bool) : State := { s with pres := presSet s.pres i b }

/-! ### Beginning and ending a command (R300, R340) -/

/-- The first line of the command frame (R300): `BUSY <- 1; RESLEN <- 0; RESVAL <- 0; ERRINFO <- 0`, and which command
the sequencer is to run. -/
def State.begin (s : State) (r : Running) : State :=
  { s with busy := true, reslen := 0, resval := 0, errinfo := 0, running := r }

/-- Step 6 of the command frame (R300): the command ends normally. The model's own latches are cleared (log 10). -/
def State.finish (s : State) : State :=
  { s with
    kind := .ok
    cause := .none
    ekey := none
    phase := .idle
    busy := false
    running := .none
    stage := none
    desc := 0
    len := 0
    txt := [] }

/-- `raise K(cause, key)` (R340): the command ends at once; state written before keeps its value, but `TXLEN` of a
BUILD. This is the one way a command ends in an error; nothing is saved elsewhere and control goes nowhere (R345).
The model's own latches are cleared (log 10). -/
def State.raise (s : State) (k : Kind) (c : Cause) (key : Option Nat) : State :=
  { s with
    kind := k
    cause := c
    ekey := key
    reslen := 0
    resval := 0
    txlen := if s.running = .build then 0 else s.txlen
    phase := .idle
    busy := false
    running := .none
    stage := none
    desc := 0
    len := 0
    txt := [] }

/-- `reject(cause)` (R340): `raise REJECT(cause, key)`. -/
def State.rejected (s : State) (c : Cause) (key : Option Nat) : State := s.raise .reject c key

/-! ### Computations that may raise -/

/-- What a part of a command does: it answers a value and the state it leaves, or it has raised and the command is
over. -/
inductive Res (α : Type) where
  /-- The value, and the state in which the command goes on. -/
  | val (a : α) (s : State)
  /-- The state after the `raise` (R340). -/
  | stop (s : State)

/-- Go on with the value, unless it raised. -/
def Res.bind {α β : Type} (r : Res α) (f : α → State → Res β) : Res β :=
  match r with
  | .val a s => f a s
  | .stop s => .stop s

/-- The state a computation ends in, once `f` has done the rest. -/
def Res.andThen {α : Type} (r : Res α) (f : α → State → State) : State :=
  match r with
  | .val a s => f a s
  | .stop s => s

/-- A part of a command that raises. -/
def Res.fail {α : Type} (s : State) (k : Kind) (c : Cause) (key : Option Nat) : Res α := .stop (s.raise k c key)

/-! ### The access primitives (R66 to R69) -/

/-- `take(n, k)` (R66): the next `n` bytes of RXBUF. An underrun raises and leaves `CURSOR` (R67). -/
def take (n k : Nat) (s : State) : Res Bytes :=
  if s.rxlen < s.cursor + n then .fail s .parseError .peUnderrun (some k)
  else .val (memReadRange s.rxbuf s.cursor n) { s with cursor := s.cursor + n }

/-- `emit(v)` (R68): append to TXBUF at `TXLEN`. -/
def emit (v : Bytes) (s : State) : Res Unit :=
  if s.params.bufCap < s.txlen + v.length then .fail s .buildError .beTxOvf none
  else .val () { s with txbuf := memWriteRange s.txbuf s.txlen v, txlen := s.txlen + v.length }

/-- `operand()` (R69): the bytes of OPBUF below `OPLEN`. -/
def State.operand (s : State) : Bytes := memReadRange s.opbuf 0 s.oplen

/-- `result(v)` (R69): the bytes into RESBUF from 0, their count into `RESLEN`; too many are refused. -/
def putResult (v : Bytes) (s : State) : Res Unit :=
  if s.params.bufCap < v.length then .fail s .reject .rjOperand none
  else .val () { s with resbuf := memWriteRange s.resbuf 0 v, reslen := v.length }

/-- `result(v)`, then `RESVAL <- rv`, then the command ends normally. -/
def resultDone (v : Bytes) (rv : Word) (s : State) : State :=
  (putResult v s).andThen (fun _ s => State.finish { s with resval := rv })

/-- `RESVAL <- rv`, `RESLEN <- 0`, and the command ends normally. -/
def scalarDone (rv : Word) (s : State) : State := State.finish { s with reslen := 0, resval := rv }

end Sys2Proof.Machine
end

