-- ==== Sys2Proof/Machine/Operands.lean ====
section
/-! DEFINITION. The operand forms of the commands (spec/30_encoding.md R91, R92) and the checks that the command frame
makes on them (spec/46_accessors.md R300, checks 2 to 4). -/

namespace Sys2Proof.Machine

/-- The key of a command as a number (R91: unsigned, not scaled). -/
def keyNat (key : BitVec 8) : Nat := key.toNat

/-- The range 1..128 of SET_BIT and GET_BIT (R306, R307). -/
def presKeyOk (key : BitVec 8) : Bool := decide (1 ≤ keyNat key) && decide (keyNat key ≤ 128)

/-- The range 2..128 of the field commands (R308, R309, R310). -/
def fieldKeyOk (key : BitVec 8) : Bool := decide (2 ≤ keyNat key) && decide (keyNat key ≤ 128)

/-- The range 0..128 of the introspection commands (R170 to R175). -/
def catKeyOk (key : BitVec 8) : Bool := decide (keyNat key ≤ 128)

/-- The whole of `arg` read as a number is 0 or 1 (R91, R300 check 4). -/
def bitArgOk (arg : BitVec 16) : Bool := decide (arg.toNat ≤ 1)

/-- The bit that `arg` carries. -/
def argBit (arg : BitVec 16) : Bool := arg.getLsbD 0

/-- Checks 2 to 4 of the command frame (R300), in their order: unbound, key range, bit value. Check 1, the opcode, is
made before, when the word is decoded (Machine/HostPort.lean). -/
def frameCheck (needBound keyOk bitOk : Bool) (s : State) : Option (Kind × Cause) :=
  if needBound && !s.bound then some (.specError, .seUnbound)
  else if !keyOk then some (.reject, .rjKeyRange)
  else if !bitOk then some (.reject, .rjBitValue)
  else none

/-- The command frame (R300) around a command's own rule. A check that fails names no key (R342). -/
def frame (needBound keyOk bitOk : Bool) (s : State) (rule : State → State) : State :=
  match frameCheck needBound keyOk bitOk s with
  | some (k, c) => (s.begin .none).raise k c none
  | none => rule (s.begin .none)

/-- A word whose opcode is not in the opcode map (R92, R96, R300 check 1). -/
def badOpcode (s : State) : State := (s.begin .none).rejected .rjBadOpcode none

end Sys2Proof.Machine
end

