-- ==== Sys2Proof/Machine/Catalog.lean ====
section
/-! DEFINITION. The field specification catalog (spec/41_catalog.md): the view of a descriptor word as a FieldSpec
(spec/00_scope.md R7, spec/30_encoding.md R100 to R103), the lookup `CAT[k]` (R150), the effective maximum length
(spec/00_scope.md R13), and the consistency check (R160). -/

namespace Sys2Proof.Machine

/-- One catalog entry (R7). A class or data encoding is `none` for the illegal codes (R101, R102), which no bound
catalog holds (R104); `lenc = none` is "not set". -/
structure FieldSpec where
  cls : Option Class
  denc : Option Enc
  ldisc : Disc
  lenc : Option Enc
  maxlen : Nat
  desc : Bytes
deriving DecidableEq, Repr

/-- The entry that a descriptor word and a description hold (R100, R150). -/
def fieldSpec (d : Word) (desc : Bytes) : FieldSpec where
  cls := classOfCode (descCls d)
  denc := encOfCode (descDenc d)
  ldisc := discOfCode (descLdisc d)
  lenc := encOfCode (descLenc d)
  maxlen := (descMaxlen d).toNat
  desc := desc

/-- The classes whose name contains an `a` or an `s`, TEXTCLS (R12). -/
def isTextClass : Class → Bool
  | .clsA | .clsS | .clsAn | .clsAs | .clsNs | .clsAns => true
  | .clsN | .clsB | .clsZ => false

/-- `effmax(e)` (R13): twice the maximum for class `b` under ASCII, else the maximum. -/
def effmax (e : FieldSpec) : Nat :=
  if e.denc = some .ascii ∧ e.cls = some .clsB then 2 * e.maxlen else e.maxlen

/-- `effmax` of a descriptor word. -/
def descEffmax (d : Word) : Nat := effmax (fieldSpec d [])

/-- The data encoding of a descriptor word. -/
def descEnc (d : Word) : Option Enc := encOfCode (descDenc d)

/-- The content class of a descriptor word. -/
def descClass (d : Word) : Option Class := classOfCode (descCls d)

/-- The maximum of a descriptor word as a number. -/
def descMax (d : Word) : Nat := (descMaxlen d).toNat

/-! ### Codes of the introspection commands (R101 to R103) -/

/-- The code of a class (R101). -/
def classCode : Option Class → Word
  | some .clsA => 0
  | some .clsN => 1
  | some .clsS => 2
  | some .clsAn => 3
  | some .clsAs => 4
  | some .clsNs => 5
  | some .clsAns => 6
  | some .clsB => 7
  | some .clsZ => 8
  | none => 15

/-- The code of an encoding, 0 when it is not set (R102). -/
def encCode : Option Enc → Word
  | none => 0
  | some .ascii => 1
  | some .bcd => 2
  | some .bin => 3

/-- The code of a discipline (R103). -/
def discCode : Disc → Word
  | .fixed => 0
  | .lvar => 1
  | .llvar => 2
  | .lllvar => 3

/-! ### Lookup and check -/

/-- The descriptor word at key `k` of the catalog that CATSEL selects (R65). -/
def State.catWord (s : State) (k : Nat) : Word := catRomWord s.catrom s.catsel k

/-- `CAT[k]` (R150): the entry, or SPEC_ERROR(SE_NO_ENTRY, k). -/
def catLookup (k : Nat) (s : State) : Res FieldSpec :=
  if descV (s.catWord k) then .val (fieldSpec (s.catWord k) (catRomEntry s.catrom s.catsel k).desc) s
  else .fail s .specError .seNoEntry (some k)

/-- Checks 0 to 4 on one descriptor word, in that order (R160): the cause of the first that fails. -/
def checkWord (d : Word) : Option Cause :=
  if descDenc d = 0 then some .seChkDenc
  else if descLdisc d ≠ 0 ∧ descLenc d = 0 then some .seChkLenc
  else
    match classOfCode (descCls d) with
    | none => some .seChkClass
    | some c =>
      if isTextClass c ∧ encOfCode (descDenc d) ≠ some .ascii then some .seChkAscii
      else if c = .clsB ∧ encOfCode (descDenc d) = some .bcd then some .seChkBinBcd
      else none

/-- The check of one key (R160): a key without an entry passes. -/
def checkKey (rom : CatRom) (c : BitVec 2) (k : Nat) : Option (Cause × Nat) :=
  if descV (catRomWord rom c k) then (checkWord (catRomWord rom c k)).map (fun cause => (cause, k)) else none

/-- `check(c)` (R160): keys 0 to 128 in order, the first failure ends it. -/
def catCheck (rom : CatRom) (c : BitVec 2) : Option (Cause × Nat) :=
  (List.range nKey).findSome? (checkKey rom c)

end Sys2Proof.Machine
end

