-- ==== Sys2Proof/Machine/Bitmap.lean ====
section
/-! DEFINITION. The bitmap engine (spec/42_bitmap.md): the BITMAP phases of DECODE (R181, R182) and of BUILD (R186 to
R188). STRICT has no effect on it (R189). -/

namespace Sys2Proof.Machine

/-- The primary word of the presence map: PRES[i] in bit 64 - i (R180). -/
def primaryWord (p : BitVec 128) : BitmapWord := p.extractLsb' 64 64

/-- The secondary word of the presence map: PRES[64+i] in bit 64 - i (R180). -/
def secondaryWord (p : BitVec 128) : BitmapWord := p.extractLsb' 0 64

/-- The presence map of two words (R180). -/
def presOfWords (w1 w2 : BitmapWord) : BitVec 128 := w1 ++ w2

/-- The word that eight bytes hold, big-endian (R116, R181). -/
def wordOfBytes (bs : Bytes) : BitmapWord := BitVec.ofNat 64 (beNat bs)

/-- The eight bytes of a word, big-endian (R187). -/
def bytesOfWord (w : BitmapWord) : Bytes := beBytes 8 w.toNat

/-- `readWord()` (R181). -/
def readWord (s : State) : Res BitmapWord :=
  (catLookup 1 s).bind fun e s =>
    match e.denc with
    | some .bin => (take 8 1 s).bind fun bs s => .val (wordOfBytes bs) s
    | some .ascii =>
      (take 16 1 s).bind fun t s =>
        match hexDecode t with
        | some bs => .val (wordOfBytes bs) s
        | none => .fail s .parseError .peBitmapHex (some 1)
    | _ => .fail s .specError .seHdrEnc (some 1)

/-- `PRES[i] <- w[64-i]` for `i` in 1..64. -/
def State.setPrimary (s : State) (w : BitmapWord) : State := { s with pres := presOfWords w (secondaryWord s.pres) }

/-- `PRES[64+i] <- w[64-i]` for `i` in 1..64. -/
def State.setSecondary (s : State) (w : BitmapWord) : State := { s with pres := presOfWords (primaryWord s.pres) w }

/-- `bitmapDecode()` (R182). No third word is read (R185). -/
def bitmapDecode (s : State) : Res Unit :=
  (readWord s).bind fun w1 s =>
    if presBit (s.setPrimary w1).pres 1 then
      (readWord (s.setPrimary w1)).bind fun w2 s => .val () (s.setSecondary w2)
    else .val () ((s.setPrimary w1).setSecondary 0)

/-- `activate()` (R186): PRES[1] is forced to 1 when some field above 64 is present. -/
def activate (s : State) : State :=
  if secondaryWord s.pres = 0 then s else s.setPres 1 true

/-- `writeWord(lo)` (R187), `w` being the word of the presence map that starts after field `lo`. -/
def writeWord (w : BitmapWord) (s : State) : Res Unit :=
  (catLookup 1 s).bind fun e s =>
    match e.denc with
    | some .bin => emit (bytesOfWord w) s
    | some .ascii => emit (hexEncode (bytesOfWord w)) s
    | _ => .fail s .specError .seHdrEnc (some 1)

/-- `bitmapEncode()` (R188). -/
def bitmapEncode (s : State) : Res Unit :=
  (writeWord (primaryWord (activate s).pres) (activate s)).bind fun _ s =>
    if presBit s.pres 1 then writeWord (secondaryWord s.pres) s else .val () s

end Sys2Proof.Machine
end

