-- ==== Sys2Proof/Machine/Flags.lean ====
section
/-! DEFINITION. The flags and the registers as the host sees them (spec/10_state.md R34 to R46): the codes of KIND and
CAUSE (spec/60_exceptions.md R341, R342), the packing of STATUS and ERRINFO, and a read of each register. No command
produces an arithmetic flag (R34). -/

namespace Sys2Proof.Machine

/-- The code of a kind (R38). -/
def kindCode : Kind → BitVec 3
  | .ok => 0
  | .specError => 1
  | .parseError => 2
  | .buildError => 3
  | .reject => 4

/-- The code of a cause (R342). -/
def causeCode : Cause → BitVec 8
  | .none => 0x00
  | .seUnbound => 0x10
  | .seNoCatalog => 0x11
  | .seNoEntry => 0x12
  | .seChkLenc => 0x13
  | .seChkClass => 0x14
  | .seChkAscii => 0x15
  | .seChkBinBcd => 0x16
  | .seChkDenc => 0x17
  | .seHdrEnc => 0x18
  | .peUnderrun => 0x20
  | .mtiNonnum => 0x21
  | .mtiStrictClass => 0x22
  | .mtiStrictOrigin => 0x23
  | .mtiVersion => 0x24
  | .mtiClass => 0x25
  | .mtiFunction => 0x26
  | .mtiOrigin => 0x27
  | .peBitmapHex => 0x28
  | .peLenNonnum => 0x29
  | .peLenTooLarge => 0x2A
  | .peValue => 0x2B
  | .beMtiUnset => 0x30
  | .beMtiInvalid => 0x31
  | .beNoValue => 0x32
  | .beTooLong => 0x33
  | .beFixedLen => 0x34
  | .bePrefixOvf => 0x35
  | .beValueEnc => 0x36
  | .beTxOvf => 0x37
  | .rjBadOpcode => 0x40
  | .rjKeyRange => 0x41
  | .rjBitValue => 0x42
  | .rjMtiLen => 0x44
  | .rjValueTooLong => 0x46
  | .rjOperand => 0x47

/-- The code of a phase (R30). The host cannot read it. -/
def phaseCode : Phase → BitVec 3
  | .idle => 0
  | .start => 1
  | .mti => 2
  | .bitmap => 3
  | .field => 4
  | .done => 5

/-- EKEY as a byte: 0xFF when the error names no key (R38). -/
def ekeyCode : Option Nat → BitVec 8
  | none => 0xFF
  | some k => BitVec.ofNat 8 k

/-- STATUS (R38): KIND 2:0, BUSY 3, BOUND 4, STRICT 5, MTI_VALID 6, CAUSE 15:8, EKEY 23:16, the rest 0. -/
def statusWord (s : State) : Word :=
  (0 : BitVec 8) ++ ekeyCode s.ekey ++ causeCode s.cause ++ (0 : BitVec 1) ++ BitVec.ofBool s.mtiValid ++
    BitVec.ofBool s.strict ++ BitVec.ofBool s.bound ++ BitVec.ofBool s.busy ++ kindCode s.kind

/-- `pack(t)` (R39): byte i of a four-character text in bits 31-8i : 24-8i; a shorter text is filled with zero bytes
(R208). -/
def packText (t : Bytes) : Word := t.getD 0 0 ++ t.getD 1 0 ++ t.getD 2 0 ++ t.getD 3 0

/-- The ten registers of R35, by number. -/
inductive RegName where
  | cmd | status | errinfo | rxlen | txlen | oplen | reslen | resval | cursor | cfg
deriving DecidableEq, Repr

/-- The register of a number; there are none above 9 (R35). -/
def regOfNumber : Nat → Option RegName
  | 0 => some .cmd
  | 1 => some .status
  | 2 => some .errinfo
  | 3 => some .rxlen
  | 4 => some .txlen
  | 5 => some .oplen
  | 6 => some .reslen
  | 7 => some .resval
  | 8 => some .cursor
  | 9 => some .cfg
  | _ => none

/-- What the host reads from a register (R35 to R46): CMD reads 0; bits that are not listed read 0. -/
def regRead (s : State) : RegName → Word
  | .cmd => 0
  | .status => statusWord s
  | .errinfo => s.errinfo
  | .rxlen => BitVec.ofNat 32 s.rxlen
  | .txlen => BitVec.ofNat 32 s.txlen
  | .oplen => BitVec.ofNat 32 s.oplen
  | .reslen => BitVec.ofNat 32 s.reslen
  | .resval => s.resval
  | .cursor => BitVec.ofNat 32 (s.cursor % 2 ^ 16)
  | .cfg => s.catsel.zeroExtend 32

end Sys2Proof.Machine
end

