-- ==== Sys2Proof/Machine/MtiCheck.lean ====
section
/-! DEFINITION. The MTI validator (spec/43_mti.md): the check (R204) and its three callers, the MTI phases of DECODE
(R207) and of BUILD (R210) and the set path (R208). -/

namespace Sys2Proof.Machine

/-- The four characters as a byte string, first on the wire first (R22). -/
def mtiBytes (m : Mti) : Bytes := [m.d0, m.d1, m.d2, m.d3]

/-- The MTI that a text of four characters is. -/
def mtiOfBytes (t : Bytes) : Mti := { d0 := t.getD 0 0, d1 := t.getD 1 0, d2 := t.getD 2 0, d3 := t.getD 3 0 }

/-- The legal version digits (R202; the numerals 0, 1, 2 are the spec's from general knowledge, log 15). -/
def versionLegal (d : Nat) : Bool := d == 0 || d == 1 || d == 2 || d == 8 || d == 9

/-- `mtiCheck(t, strict)` (R204): `none` when the text is a legal MTI, else the cause of the first check that fails. -/
def mtiCheck (t : Bytes) (strict : Bool) : Option Cause :=
  if t.length ≠ 4 ∨ !isNum t then some .mtiNonnum
  else
    let d0 := digitVal (t.getD 0 0)
    let d1 := digitVal (t.getD 1 0)
    let d2 := digitVal (t.getD 2 0)
    let d3 := digitVal (t.getD 3 0)
    if strict ∧ d1 = 0 then some .mtiStrictClass
    else if strict ∧ 5 < d3 then some .mtiStrictOrigin
    else if !versionLegal d0 then some .mtiVersion
    else if ¬(1 ≤ d1 ∧ d1 ≤ 9) then some .mtiClass
    else if ¬d2 ≤ 7 then some .mtiFunction
    else if ¬d3 ≤ 5 then some .mtiOrigin
    else none

/-- `mtiRead()` (R201): the wire read of the MTI phase of DECODE. -/
def mtiRead (s : State) : Res Bytes :=
  (catLookup 0 s).bind fun e s =>
    match e.denc with
    | some .bcd => (take 2 0 s).bind fun bs s => .val (bcdDecode bs) s
    | some .ascii => take 4 0 s
    | _ => .fail s .specError .seHdrEnc (some 0)

/-- `MTI <- t; MTI_VALID <- 1`. -/
def State.storeMti (s : State) (t : Bytes) : State := { s with mti := mtiOfBytes t, mtiValid := true }

/-- The MTI phase of DECODE (R207). -/
def mtiDecode (s : State) : Res Unit :=
  (mtiRead s).bind fun t s =>
    match mtiCheck t s.strict with
    | some c => .fail { s with errinfo := packText t } .parseError c (some 0)
    | none => .val () (s.storeMti t)

/-- The set path (R208), `t` being the operand of SET_MTI. -/
def mtiSet (t : Bytes) (s : State) : Res Unit :=
  if t.length = 0 ∨ 4 < t.length then
    .fail { s with errinfo := packText (t.take 4) } .reject .rjMtiLen (some 0)
  else if !isNum t then
    .fail { s with errinfo := packText (padL t 0x30 4) } .reject .mtiNonnum (some 0)
  else
    match mtiCheck (padL t 0x30 4) s.strict with
    | some c => .fail { s with errinfo := packText (padL t 0x30 4) } .reject c (some 0)
    | none => .val () (s.storeMti (padL t 0x30 4))

/-- `bcdEncode(MTI)` (R210, R111): two bytes. The four characters are digits whenever the MTI is valid, so the packing
does not fail; were it to fail the command would end as it does for an invalid MTI (R210). -/
def mtiEmit (s : State) : Res Unit :=
  (catLookup 0 s).bind fun e s =>
    if !s.mtiValid then .fail s .buildError .beMtiUnset (some 0)
    else
      match mtiCheck (mtiBytes s.mti) s.strict with
      | some _ => .fail { s with errinfo := packText (mtiBytes s.mti) } .buildError .beMtiInvalid (some 0)
      | none =>
        match e.denc with
        | some .bcd =>
          match bcdEncode (mtiBytes s.mti) with
          | some bs => emit bs s
          | none => .fail { s with errinfo := packText (mtiBytes s.mti) } .buildError .beMtiInvalid (some 0)
        | some .ascii => emit (mtiBytes s.mti) s
        | _ => .fail s .specError .seHdrEnc (some 0)

/-- The value of a digit character as a nibble. -/
def digitNibble (c : Byte) : BitVec 4 := c.extractLsb' 0 4

/-- The components of a stored MTI, packed as GET_MTI returns them (R211, R305): version 15:12, class 11:8, function
7:4, origin 3:0. The low nibble of a digit character is its value. -/
def mtiPacked (m : Mti) : Word :=
  (0 : BitVec 16) ++ digitNibble m.d0 ++ digitNibble m.d1 ++ digitNibble m.d2 ++ digitNibble m.d3

end Sys2Proof.Machine
end

