-- ==== Sys2Proof/Machine/DecodePath.lean ====
section
/-! DEFINITION. The decode path of one field (spec/44_decode.md section 2): the length stage (R224 to R229) and the
value stage (R234 to R238), as the micro-operations that the descriptor selects (spec/30_encoding.md R105). A
micro-operation runs on the field `FIDX` with the descriptor word `d`; it hands the length to the value stage in
`len`, or it ends the field and goes on to the next present one (spec/10_state.md R31). -/

namespace Sys2Proof.Machine

/-! ### Going from field to field (R31) -/

/-- The next field after `f`: the least present field number above it (R31, "a priority encoder over PRES"). -/
def nextPresent (p : BitVec 128) (f : Nat) : Option Nat :=
  (List.range' (f + 1) (128 - f)).find? (presBit p)

/-- Go on after field `f` (R31): to the next present field, whose descriptor is still to be read, or to DONE. Field 1
is never processed (R185): the first call is after field 1. -/
def State.nextField (s : State) (f : Nat) : State :=
  match nextPresent s.pres f with
  | some g => { s with phase := .field, fidx := g, stage := none }
  | none => { s with phase := .done, stage := none }

/-- `VAL[f] <- v`, and the field `FIDX` is done (R223, R229). -/
def State.storeField (s : State) (v : Value) : State := (s.setVal s.fidx v).nextField s.fidx

/-! ### Length stage (R224 to R227), with the checks that follow every length stage (R228, R229) -/

/-- After every length stage: the maximum check (R228), the zero length (R229), else the value stage. -/
def lengthKnown (d : Word) (n : Nat) (s : State) : State :=
  if descEffmax d < n then s.raise .parseError .peLenTooLarge (some s.fidx)
  else if n = 0 then s.storeField .absent
  else { s with len := n, stage := some .dval }

/-- A length prefix whose characters are `t` (R225, R226). -/
def lengthDigits (d : Word) (t : Bytes) (s : State) : State :=
  match decToNat t with
  | some n => lengthKnown d n s
  | none => s.raise .parseError .peLenNonnum (some s.fidx)

/-- `DLEN.FIXED` (R224): no byte is read. -/
def lengthFixed (d : Word) (s : State) : State := lengthKnown d (descEffmax d) s

/-- `DLEN.ASCII` (R225) with a prefix of `w` characters. -/
def lengthAscii (w : Nat) (d : Word) (s : State) : State :=
  (take w s.fidx s).andThen fun t s => lengthDigits d t s

/-- `DLEN.BCD` (R226) with a prefix of `w` digits in `ceil2(w)` bytes; the padding nibble counts as a digit. -/
def lengthBcd (w : Nat) (d : Word) (s : State) : State :=
  (take (ceil2 w) s.fidx s).andThen fun bs s => lengthDigits d (bcdDecode bs) s

/-- `DLEN.BIN` (R227) with a prefix of `w` bytes, big-endian; refused under BIN_LEN_MODE = refuse (log 21). -/
def lengthBin (w : Nat) (d : Word) (s : State) : State :=
  match s.params.binLenMode with
  | .refuse => s.raise .specError .seHdrEnc (some s.fidx)
  | .beBytes => (take w s.fidx s).andThen fun bs s => lengthKnown d (beNat bs) s

/-! ### Value stage (R234 to R238); the length is `len` -/

/-- A numeric value whose characters are `t` (R234, R236). -/
def valueDigits (t : Bytes) (s : State) : State :=
  match decToNat t with
  | some n => s.storeField (.int n)
  | none => s.raise .parseError .peValue (some s.fidx)

/-- `DVAL.ASCII.N` (R234). -/
def valueAsciiNumber (s : State) : State := (take s.len s.fidx s).andThen fun t s => valueDigits t s

/-- `DVAL.ASCII.T` (R235): the bytes as they stand. -/
def valueAsciiText (s : State) : State := (take s.len s.fidx s).andThen fun t s => s.storeField (.text t)

/-- `DVAL.BCD.N` (R236): an odd length has a padding nibble, which is read as a digit. -/
def valueBcdNumber (s : State) : State :=
  (take (ceil2 s.len) s.fidx s).andThen fun bs s => valueDigits (bcdDecode bs) s

/-- Every `D` becomes `=`, then one trailing `F` is taken away (R237). -/
def trackDecode (t : Bytes) : Bytes :=
  let u := t.map (fun c => if c = 0x44#8 then 0x3D#8 else c)
  if u.getLast? = some 0x46#8 then u.dropLast else u

/-- `DVAL.BCD.Z` (R237). -/
def valueTrack (s : State) : State :=
  (take (ceil2 s.len) s.fidx s).andThen fun bs s => s.storeField (.text (trackDecode (hexEncode bs)))

/-- `DVAL.BIN` (R238): upper-case hexadecimal text. -/
def valueBin (s : State) : State := (take s.len s.fidx s).andThen fun bs s => s.storeField (.text (hexEncode bs))

/-! ### The micro-operations, one definition per row -/

/-- DLEN.FIXED (R224). -/
def execDlenFixed (d : Word) (s : State) : Out := .next (lengthFixed d s)

/-- DLEN.ASCII_LVAR (R225). -/
def execDlenAsciiLvar (d : Word) (s : State) : Out := .next (lengthAscii 1 d s)

/-- DLEN.ASCII_LLVAR (R225). -/
def execDlenAsciiLlvar (d : Word) (s : State) : Out := .next (lengthAscii 2 d s)

/-- DLEN.ASCII_LLLVAR (R225). -/
def execDlenAsciiLllvar (d : Word) (s : State) : Out := .next (lengthAscii 3 d s)

/-- DLEN.BCD_LVAR (R226). -/
def execDlenBcdLvar (d : Word) (s : State) : Out := .next (lengthBcd 1 d s)

/-- DLEN.BCD_LLVAR (R226). -/
def execDlenBcdLlvar (d : Word) (s : State) : Out := .next (lengthBcd 2 d s)

/-- DLEN.BCD_LLLVAR (R226). -/
def execDlenBcdLllvar (d : Word) (s : State) : Out := .next (lengthBcd 3 d s)

/-- DLEN.BIN_LVAR (R227). -/
def execDlenBinLvar (d : Word) (s : State) : Out := .next (lengthBin 1 d s)

/-- DLEN.BIN_LLVAR (R227). -/
def execDlenBinLlvar (d : Word) (s : State) : Out := .next (lengthBin 2 d s)

/-- DLEN.BIN_LLLVAR (R227). -/
def execDlenBinLllvar (d : Word) (s : State) : Out := .next (lengthBin 3 d s)

/-- DVAL.ASCII.N (R234). -/
def execDvalAsciiN (_d : Word) (s : State) : Out := .next (valueAsciiNumber s)

/-- DVAL.ASCII.T_a (R235). -/
def execDvalAsciiTA (_d : Word) (s : State) : Out := .next (valueAsciiText s)

/-- DVAL.ASCII.T_s (R235). -/
def execDvalAsciiTS (_d : Word) (s : State) : Out := .next (valueAsciiText s)

/-- DVAL.ASCII.T_an (R235). -/
def execDvalAsciiTAn (_d : Word) (s : State) : Out := .next (valueAsciiText s)

/-- DVAL.ASCII.T_as (R235). -/
def execDvalAsciiTAs (_d : Word) (s : State) : Out := .next (valueAsciiText s)

/-- DVAL.ASCII.T_ns (R235). -/
def execDvalAsciiTNs (_d : Word) (s : State) : Out := .next (valueAsciiText s)

/-- DVAL.ASCII.T_ans (R235). -/
def execDvalAsciiTAns (_d : Word) (s : State) : Out := .next (valueAsciiText s)

/-- DVAL.ASCII.T_b (R235). -/
def execDvalAsciiTB (_d : Word) (s : State) : Out := .next (valueAsciiText s)

/-- DVAL.ASCII.T_z (R235). -/
def execDvalAsciiTZ (_d : Word) (s : State) : Out := .next (valueAsciiText s)

/-- DVAL.BCD.N (R236). -/
def execDvalBcdN (_d : Word) (s : State) : Out := .next (valueBcdNumber s)

/-- DVAL.BCD.Z (R237). -/
def execDvalBcdZ (_d : Word) (s : State) : Out := .next (valueTrack s)

/-- DVAL.BIN_n (R238). -/
def execDvalBinN (_d : Word) (s : State) : Out := .next (valueBin s)

/-- DVAL.BIN_b (R238). -/
def execDvalBinB (_d : Word) (s : State) : Out := .next (valueBin s)

/-- DVAL.BIN_z (R238). -/
def execDvalBinZ (_d : Word) (s : State) : Out := .next (valueBin s)

end Sys2Proof.Machine
end

