-- ==== Sys2Proof/Machine/BuildPath.lean ====
section
/-! DEFINITION. The build path of one field (spec/45_build.md section 2): the format stage with its measure and width
checks (R264 to R267, R272, R273), the length prefix (R274 to R276) and the emit stage (R280 to R282), as the
micro-operations that the descriptor selects (spec/30_encoding.md R105). A micro-operation runs on the field `FIDX`
with the descriptor word `d`; it hands the text to the later stages in `txt` and the length in `len`. -/

namespace Sys2Proof.Machine

/-! ### Format stage -/

/-- `measure(e, f, t)` (R267): bytes (two characters each) under BIN, else characters; `none` for an odd count under
BIN. -/
def measureText (d : Word) (t : Bytes) : Option Nat :=
  if descEnc d = some .bin then (if t.length % 2 = 1 then none else some (t.length / 2)) else some t.length

/-- FIXED: the formatted text must be exactly `effmax` wide (R267). -/
def fixedReady (d : Word) (t : Bytes) (s : State) : State :=
  match measureText d t with
  | none => s.raise .buildError .beValueEnc (some s.fidx)
  | some n =>
    if n ≠ descEffmax d then s.raise .buildError .beFixedLen (some s.fidx)
    else { s with txt := t, len := n, stage := some .bemit }

/-- FIXED: an absent value is an error, another is formatted by `pad` (R264 to R266). -/
def fixedFormat (d : Word) (pad : Bytes → Bytes) (s : State) : State :=
  match s.val s.fidx with
  | .absent => s.raise .buildError .beNoValue (some s.fidx)
  | v => fixedReady d (pad (str v)) s

/-- `BFMT.FIXED.N` (R264): zeros on the left up to `maxlen`. -/
def formatNumber (d : Word) (s : State) : State := fixedFormat d (fun t => padL t 0x30 (descMax d)) s

/-- `BFMT.FIXED.T` (R265): spaces on the left up to `maxlen`. -/
def formatText (d : Word) (s : State) : State := fixedFormat d (fun t => padL t 0x20 (descMax d)) s

/-- `BFMT.FIXED.P` (R266): as it stands. -/
def formatPlain (d : Word) (s : State) : State := fixedFormat d (fun t => t) s

/-- Track 2 under BCD (R272): every `=` becomes `D`, then an odd text gets a trailing `F`. -/
def trackEncode (t : Bytes) : Bytes :=
  let u := t.map (fun c => if c = 0x3D#8 then 0x44#8 else c)
  if u.length % 2 = 1 then u ++ [0x46#8] else u

/-- `varFormat(e, v)` (R272). -/
def varText (d : Word) (v : Value) : Bytes :=
  if descClass d = some .clsZ ∧ descEnc d = some .bcd then trackEncode (str v) else str v

/-- A variable discipline: the measured length must not exceed `effmax` (R273). -/
def varReady (d : Word) (t : Bytes) (s : State) : State :=
  match measureText d t with
  | none => s.raise .buildError .beValueEnc (some s.fidx)
  | some n =>
    if descEffmax d < n then s.raise .buildError .beTooLong (some s.fidx)
    else { s with txt := t, len := n, stage := some .bpfx }

/-- `BFMT.VAR` (R272, R273). -/
def formatVar (d : Word) (s : State) : State := varReady d (varText d (s.val s.fidx)) s

/-! ### Length prefix -/

/-- Emit the prefix bytes, then the emit stage. -/
def emitPrefix (v : Bytes) (s : State) : State := (emit v s).andThen fun _ s => { s with stage := some .bemit }

/-- The decimal text of a length at `w` digits (R113). -/
def lengthText (w n : Nat) : Bytes := padL (natToDec n) 0x30 w

/-- `BPFX.ASCII` (R274) with `w` digits. -/
def prefixAscii (w : Nat) (s : State) : State :=
  if 10 ^ w ≤ s.len then s.raise .buildError .bePrefixOvf (some s.fidx) else emitPrefix (lengthText w s.len) s

/-- `BPFX.BCD` (R275) with `w` digits. Decimal text always packs (Laws/Codecs.lean); were it to fail, the field would
end as R281 says. -/
def prefixBcd (w : Nat) (s : State) : State :=
  if 10 ^ w ≤ s.len then s.raise .buildError .bePrefixOvf (some s.fidx)
  else
    match bcdEncode (lengthText w s.len) with
    | some bs => emitPrefix bs s
    | none => s.raise .buildError .beValueEnc (some s.fidx)

/-- `BPFX.BIN` (R276) with `w` bytes; refused under BIN_LEN_MODE = refuse (log 21). -/
def prefixBin (w : Nat) (s : State) : State :=
  match s.params.binLenMode with
  | .refuse => s.raise .specError .seHdrEnc (some s.fidx)
  | .beBytes =>
    if 256 ^ w ≤ s.len then s.raise .buildError .bePrefixOvf (some s.fidx) else emitPrefix (beBytes w s.len) s

/-! ### Emit stage -/

/-- Emit the value bytes; the field `FIDX` is done. -/
def emitValue (v : Bytes) (s : State) : State := (emit v s).andThen fun _ s => s.nextField s.fidx

/-- Emit a packed value; a text that does not pack is an error (R281, R282). -/
def emitPacked (r : Option Bytes) (s : State) : State :=
  match r with
  | some bs => emitValue bs s
  | none => s.raise .buildError .beValueEnc (some s.fidx)

/-! ### The micro-operations, one definition per row -/

/-- BFMT.FIXED.N (R264). -/
def execBfmtFixedN (d : Word) (s : State) : Out := .next (formatNumber d s)

/-- BFMT.FIXED.T_a (R265). -/
def execBfmtFixedTA (d : Word) (s : State) : Out := .next (formatText d s)

/-- BFMT.FIXED.T_s (R265). -/
def execBfmtFixedTS (d : Word) (s : State) : Out := .next (formatText d s)

/-- BFMT.FIXED.T_an (R265). -/
def execBfmtFixedTAn (d : Word) (s : State) : Out := .next (formatText d s)

/-- BFMT.FIXED.T_as (R265). -/
def execBfmtFixedTAs (d : Word) (s : State) : Out := .next (formatText d s)

/-- BFMT.FIXED.T_ns (R265). -/
def execBfmtFixedTNs (d : Word) (s : State) : Out := .next (formatText d s)

/-- BFMT.FIXED.T_ans (R265). -/
def execBfmtFixedTAns (d : Word) (s : State) : Out := .next (formatText d s)

/-- BFMT.FIXED.P_b (R266). -/
def execBfmtFixedPB (d : Word) (s : State) : Out := .next (formatPlain d s)

/-- BFMT.FIXED.P_z (R266). -/
def execBfmtFixedPZ (d : Word) (s : State) : Out := .next (formatPlain d s)

/-- BFMT.VAR_LVAR (R272). -/
def execBfmtVarLvar (d : Word) (s : State) : Out := .next (formatVar d s)

/-- BFMT.VAR_LLVAR (R272). -/
def execBfmtVarLlvar (d : Word) (s : State) : Out := .next (formatVar d s)

/-- BFMT.VAR_LLLVAR (R272). -/
def execBfmtVarLllvar (d : Word) (s : State) : Out := .next (formatVar d s)

/-- BPFX.ASCII_LVAR (R274). -/
def execBpfxAsciiLvar (_d : Word) (s : State) : Out := .next (prefixAscii 1 s)

/-- BPFX.ASCII_LLVAR (R274). -/
def execBpfxAsciiLlvar (_d : Word) (s : State) : Out := .next (prefixAscii 2 s)

/-- BPFX.ASCII_LLLVAR (R274). -/
def execBpfxAsciiLllvar (_d : Word) (s : State) : Out := .next (prefixAscii 3 s)

/-- BPFX.BCD_LVAR (R275). -/
def execBpfxBcdLvar (_d : Word) (s : State) : Out := .next (prefixBcd 1 s)

/-- BPFX.BCD_LLVAR (R275). -/
def execBpfxBcdLlvar (_d : Word) (s : State) : Out := .next (prefixBcd 2 s)

/-- BPFX.BCD_LLLVAR (R275). -/
def execBpfxBcdLllvar (_d : Word) (s : State) : Out := .next (prefixBcd 3 s)

/-- BPFX.BIN_LVAR (R276). -/
def execBpfxBinLvar (_d : Word) (s : State) : Out := .next (prefixBin 1 s)

/-- BPFX.BIN_LLVAR (R276). -/
def execBpfxBinLlvar (_d : Word) (s : State) : Out := .next (prefixBin 2 s)

/-- BPFX.BIN_LLLVAR (R276). -/
def execBpfxBinLllvar (_d : Word) (s : State) : Out := .next (prefixBin 3 s)

/-- BEMIT.ASCII (R280). -/
def execBemitAscii (_d : Word) (s : State) : Out := .next (emitValue s.txt s)

/-- BEMIT.BCD (R281). -/
def execBemitBcd (_d : Word) (s : State) : Out := .next (emitPacked (bcdEncode s.txt) s)

/-- BEMIT.BIN (R282). -/
def execBemitBin (_d : Word) (s : State) : Out := .next (emitPacked (hexDecode s.txt) s)

end Sys2Proof.Machine
end

