-- ==== Sys2Proof/Machine/Sequencer.lean ====
section
/-! DEFINITION. The sequencer (spec/10_state.md R30, R31): its phases START, MTI, BITMAP, FIELD and DONE on the decode
path (spec/44_decode.md R220, R221) and on the build path (spec/45_build.md R260, R261), and the run of a whole
command. In the FIELD phase it reads the field's descriptor (R223, R263: the catalog lookup comes first), and then
it decodes the descriptor at each stage and runs the micro-operation it selects (spec/30_encoding.md R105). -/

namespace Sys2Proof.Machine

/-- The micro-operation of an instruction; `none` for a command, which no stage selects. -/
def microOp (i : Instr) (s : State) : Option Out :=
  match i with
  | .dlenFixed d => some (execDlenFixed d s)
  | .dlenAsciiLvar d => some (execDlenAsciiLvar d s)
  | .dlenAsciiLlvar d => some (execDlenAsciiLlvar d s)
  | .dlenAsciiLllvar d => some (execDlenAsciiLllvar d s)
  | .dlenBcdLvar d => some (execDlenBcdLvar d s)
  | .dlenBcdLlvar d => some (execDlenBcdLlvar d s)
  | .dlenBcdLllvar d => some (execDlenBcdLllvar d s)
  | .dlenBinLvar d => some (execDlenBinLvar d s)
  | .dlenBinLlvar d => some (execDlenBinLlvar d s)
  | .dlenBinLllvar d => some (execDlenBinLllvar d s)
  | .dvalAsciiN d => some (execDvalAsciiN d s)
  | .dvalAsciiTA d => some (execDvalAsciiTA d s)
  | .dvalAsciiTS d => some (execDvalAsciiTS d s)
  | .dvalAsciiTAn d => some (execDvalAsciiTAn d s)
  | .dvalAsciiTAs d => some (execDvalAsciiTAs d s)
  | .dvalAsciiTNs d => some (execDvalAsciiTNs d s)
  | .dvalAsciiTAns d => some (execDvalAsciiTAns d s)
  | .dvalAsciiTB d => some (execDvalAsciiTB d s)
  | .dvalAsciiTZ d => some (execDvalAsciiTZ d s)
  | .dvalBcdN d => some (execDvalBcdN d s)
  | .dvalBcdZ d => some (execDvalBcdZ d s)
  | .dvalBinN d => some (execDvalBinN d s)
  | .dvalBinB d => some (execDvalBinB d s)
  | .dvalBinZ d => some (execDvalBinZ d s)
  | .bfmtFixedN d => some (execBfmtFixedN d s)
  | .bfmtFixedTA d => some (execBfmtFixedTA d s)
  | .bfmtFixedTS d => some (execBfmtFixedTS d s)
  | .bfmtFixedTAn d => some (execBfmtFixedTAn d s)
  | .bfmtFixedTAs d => some (execBfmtFixedTAs d s)
  | .bfmtFixedTNs d => some (execBfmtFixedTNs d s)
  | .bfmtFixedTAns d => some (execBfmtFixedTAns d s)
  | .bfmtFixedPB d => some (execBfmtFixedPB d s)
  | .bfmtFixedPZ d => some (execBfmtFixedPZ d s)
  | .bfmtVarLvar d => some (execBfmtVarLvar d s)
  | .bfmtVarLlvar d => some (execBfmtVarLlvar d s)
  | .bfmtVarLllvar d => some (execBfmtVarLllvar d s)
  | .bpfxAsciiLvar d => some (execBpfxAsciiLvar d s)
  | .bpfxAsciiLlvar d => some (execBpfxAsciiLlvar d s)
  | .bpfxAsciiLllvar d => some (execBpfxAsciiLllvar d s)
  | .bpfxBcdLvar d => some (execBpfxBcdLvar d s)
  | .bpfxBcdLlvar d => some (execBpfxBcdLlvar d s)
  | .bpfxBcdLllvar d => some (execBpfxBcdLllvar d s)
  | .bpfxBinLvar d => some (execBpfxBinLvar d s)
  | .bpfxBinLlvar d => some (execBpfxBinLlvar d s)
  | .bpfxBinLllvar d => some (execBpfxBinLllvar d s)
  | .bemitAscii d => some (execBemitAscii d s)
  | .bemitBcd d => some (execBemitBcd d s)
  | .bemitBin d => some (execBemitBin d s)
  | .init _ _ => none
  | .decode => none
  | .build => none
  | .setStrict _ => none
  | .getStrict => none
  | .setMti => none
  | .getMti => none
  | .setBit _ _ => none
  | .getBit _ => none
  | .setFieldTxt _ => none
  | .setFieldInt _ => none
  | .getField _ => none
  | .getDenc _ => none
  | .getLdisc _ => none
  | .getClass _ => none
  | .getLenc _ => none
  | .getMaxlen _ => none
  | .getDesc _ => none
  | .bcdDecode => none
  | .bcdEncode => none
  | .bcdToInt => none
  | .intToBcd => none
  | .hexEncode => none
  | .hexDecode => none

/-- The field's present stage: decode the descriptor at it and run the micro-operation. A descriptor that no row of the
stage matches ends the command with SPEC_ERROR(SE_NO_ENTRY, FIDX) (R239; log 11); a bound catalog has none (R104). -/
def fieldStage (st : DStage) (s : State) : Out :=
  match decodeMicro st s.desc with
  | .ok i => (microOp i s).getD (.next (s.raise .specError .seNoEntry (some s.fidx)))
  | .error _ => .next (s.raise .specError .seNoEntry (some s.fidx))

/-- `e <- CAT[f]` (R223, R263): the descriptor of the field is read before anything else of it. -/
def fetchDescriptor (s : State) : State :=
  if descV (s.catWord s.fidx) then
    { s with desc := s.catWord s.fidx, stage := some (if s.running = .build then .bfmt else .dlen) }
  else s.raise .specError .seNoEntry (some s.fidx)

/-- `decodeStart()` (R221). That MTI[0..3] keep their characters while MTI_VALID is 0, here and where the MTI phase fails,
is the model's choice (U2 of spec/93_implementation_defined.md; log 5). -/
def decodeStart (s : State) : State :=
  { s with cursor := 0, mtiValid := false, pres := 0, vals := [], errinfo := 0, phase := .mti }

/-- `buildStart()` (R261). -/
def buildStart (s : State) : State := { s with txlen := 0, cursor := 0, errinfo := 0, phase := .mti }

/-- The MTI phase (R207, R210), then BITMAP. -/
def mtiPhase (s : State) : State :=
  (if s.running = .build then mtiEmit s else mtiDecode s).andThen fun _ s => { s with phase := .bitmap }

/-- The BITMAP phase (R182, R188), then the first present field above 1, or DONE (R31, R185). -/
def bitmapPhase (s : State) : State :=
  (if s.running = .build then bitmapEncode s else bitmapDecode s).andThen fun _ s => s.nextField 1

/-- The DONE phase (R220, R260): `RESLEN <- 0`, `RESVAL` is `CURSOR` or `TXLEN`, and the command ends normally. -/
def donePhase (s : State) : State :=
  scalarDone (BitVec.ofNat 32 (if s.running = .build then s.txlen else s.cursor)) s

/-- One step of a running sequencer (R31). -/
def seqStep (s : State) : Out :=
  match s.phase with
  | .idle => .next s.finish
  | .start => .next (if s.running = .build then buildStart s else decodeStart s)
  | .mti => .next (mtiPhase s)
  | .bitmap => .next (bitmapPhase s)
  | .field =>
    match s.stage with
    | none => .next (fetchDescriptor s)
    | some st => fieldStage st s
  | .done => .next (donePhase s)

/-- The sequencer at work until the command has ended (`BUSY = 0`), at most `n` steps. -/
def seqRun : Nat → State → Out
  | 0, s => .next s
  | n + 1, s =>
    match seqStep s with
    | .next s' => if s'.busy then seqRun n s' else .next s'
    | o => o

/-- Steps enough for any command: START, MTI, BITMAP and DONE, and at most four for each of the 127 data fields. -/
def seqBound : Nat := 4 + 4 * 127

/-- A command of the sequencer (R220, R260): the frame's checks (R300), then PHASE goes to START and the sequencer runs
the command to its end, one atomic transition towards the host (R77; log 7). -/
def seqCommand (r : Running) (s : State) : Out :=
  match frameCheck true true true s with
  | some (k, c) => .next ((s.begin r).raise k c none)
  | none => seqRun seqBound { s.begin r with phase := .start }

/-- DECODE (R220). -/
def execDecode (s : State) : Out := seqCommand .decode s

/-- BUILD (R260). -/
def execBuild (s : State) : Out := seqCommand .build s

end Sys2Proof.Machine
end

