-- ==== Sys2Proof/Machine/Surface.lean ====
section
/-! DEFINITION. The codec surface (spec/46_accessors.md): INIT (R301), the strict bit (R302, R303), the MTI (R304, R305),
the presence bits (R306, R307) and the field values (R308 to R311). Each runs in the command frame (R300). -/

namespace Sys2Proof.Machine

/-- INIT's own rule (R301): the message is emptied and unbound, then the catalog is checked and bound. That MTI[0..3]
keep their characters while MTI_VALID is 0 is the model's choice (U2 of spec/93_implementation_defined.md; log 5). -/
def initRule (cat : BitVec 2) (strict : Bool) (s : State) : State :=
  let s0 := { s with mtiValid := false, pres := 0, vals := [], strict := strict, catsel := cat, bound := false }
  if cat = 3 then s0.raise .specError .seNoCatalog none
  else
    match catCheck s0.catrom cat with
    | some (c, k) => s0.raise .specError c (some k)
    | none => { s0 with bound := true }.finish

/-- INIT (R301). -/
def execInit (cat : BitVec 2) (strict : Bool) (s : State) : Out :=
  .next (frame false true true s (initRule cat strict))

/-- SET_STRICT (R302). Nothing is validated again. -/
def execSetStrict (arg : BitVec 16) (s : State) : Out :=
  .next (frame true true (bitArgOk arg) s fun s => { s with strict := argBit arg }.finish)

/-- GET_STRICT (R303). -/
def execGetStrict (s : State) : Out :=
  .next (frame true true true s fun s => scalarDone ((BitVec.ofBool s.strict).zeroExtend 32) s)

/-- SET_MTI (R304): the operand goes through the set path (R208). -/
def execSetMti (s : State) : Out :=
  .next (frame true true true s fun s => (mtiSet s.operand s).andThen fun _ s => s.finish)

/-- GET_MTI (R305): an unset MTI reads as an empty result. -/
def execGetMti (s : State) : Out :=
  .next (frame true true true s fun s =>
    if s.mtiValid then resultDone (mtiBytes s.mti) (mtiPacked s.mti) s else scalarDone 0 s)

/-- SET_BIT (R306): the bit only; neither the catalog nor the value slot is touched. -/
def execSetBit (key : BitVec 8) (arg : BitVec 16) (s : State) : Out :=
  .next (frame true (presKeyOk key) (bitArgOk arg) s fun s => (s.setPres (keyNat key) (argBit arg)).finish)

/-- GET_BIT (R307). -/
def execGetBit (key : BitVec 8) (s : State) : Out :=
  .next (frame true (presKeyOk key) true s fun s =>
    scalarDone ((BitVec.ofBool (presBit s.pres (keyNat key))).zeroExtend 32) s)

/-- The setter's length test (R311): in the units of the maximum, or in characters under SET_LEN_MEASURE = text_chars. -/
def valueTooLong (m : Config.SetLenMeasure) (e : FieldSpec) (t : Bytes) : Bool :=
  match m with
  | .contentUnits => decide (effmax e < if e.denc = some .bin then t.length / 2 else t.length)
  | .textChars => decide (e.maxlen < t.length)

/-- `setField(f, v)` (R311). -/
def setField (f : Nat) (v : Value) (s : State) : State :=
  (catLookup f s).andThen fun e s =>
    if valueTooLong s.params.setLenMeasure e (str v) then s.rejected .rjValueTooLong (some f)
    else ((s.setVal f v).setPres f true).finish

/-- SET_FIELD_TXT (R308). -/
def execSetFieldTxt (key : BitVec 8) (s : State) : Out :=
  .next (frame true (fieldKeyOk key) true s fun s => setField (keyNat key) (.text s.operand) s)

/-- SET_FIELD_INT (R309): the operand's digits are checked before the lookup. -/
def execSetFieldInt (key : BitVec 8) (s : State) : Out :=
  .next (frame true (fieldKeyOk key) true s fun s =>
    match decToNat s.operand with
    | none => s.rejected .rjOperand (some (keyNat key))
    | some n => setField (keyNat key) (.int n) s)

/-- The scalar result of GET_FIELD (R310): the kind of value in bits 1:0, the presence bit in bit 8. -/
def fieldTag (kindTag : BitVec 2) (present : Bool) : Word :=
  (0 : BitVec 23) ++ BitVec.ofBool present ++ (0 : BitVec 6) ++ kindTag

/-- GET_FIELD (R310). It does not read the catalog. -/
def execGetField (key : BitVec 8) (s : State) : Out :=
  .next (frame true (fieldKeyOk key) true s fun s =>
    match s.val (keyNat key) with
    | .absent => scalarDone (fieldTag 0 (presBit s.pres (keyNat key))) s
    | .int n => resultDone (natToDec n) (fieldTag 1 (presBit s.pres (keyNat key))) s
    | .text t => resultDone t (fieldTag 2 (presBit s.pres (keyNat key))) s)

end Sys2Proof.Machine
end

