-- ==== Sys2Proof/Machine/Queries.lean ====
section
/-! DEFINITION. The introspection commands (spec/41_catalog.md R170 to R175) and the primitive codec commands
(spec/40_primitive_codecs.md R140 to R145). -/

namespace Sys2Proof.Machine

/-! ### Introspection -/

/-- Common to R170 to R174: the frame, the lookup, and one scalar of the entry. -/
def introspect (key : BitVec 8) (s : State) (view : FieldSpec → Word) : State :=
  frame true (catKeyOk key) true s fun s => (catLookup (keyNat key) s).andThen fun e s => scalarDone (view e) s

/-- GET_DENC (R170). -/
def execGetDenc (key : BitVec 8) (s : State) : Out := .next (introspect key s fun e => encCode e.denc)

/-- GET_LDISC (R171). -/
def execGetLdisc (key : BitVec 8) (s : State) : Out := .next (introspect key s fun e => discCode e.ldisc)

/-- GET_CLASS (R172). -/
def execGetClass (key : BitVec 8) (s : State) : Out := .next (introspect key s fun e => classCode e.cls)

/-- GET_LENC (R173): 0 when the entry has no length encoding. -/
def execGetLenc (key : BitVec 8) (s : State) : Out := .next (introspect key s fun e => encCode e.lenc)

/-- GET_MAXLEN (R174): the stored maximum, not `effmax`. -/
def execGetMaxlen (key : BitVec 8) (s : State) : Out := .next (introspect key s fun e => BitVec.ofNat 32 e.maxlen)

/-- GET_DESC (R175). -/
def execGetDesc (key : BitVec 8) (s : State) : Out :=
  .next (frame true (catKeyOk key) true s fun s =>
    (catLookup (keyNat key) s).andThen fun e s => resultDone e.desc 0 s)

/-! ### Primitive codecs -/

/-- Common to R140 to R145: the frame without a binding, and a conversion of the operand that answers a byte string
and a scalar, or fails with REJECT(RJ_OPERAND). -/
def codecCommand (s : State) (f : Bytes → Option (Bytes × Word)) : State :=
  frame false true true s fun s =>
    match f s.operand with
    | none => s.rejected .rjOperand none
    | some (v, rv) => resultDone v rv s

/-- The scalar of BCD_TO_INT (R142): saturates at 0xFFFFFFFF. -/
def saturate32 (n : Nat) : Word := if n < 2 ^ 32 then BitVec.ofNat 32 n else 0xFFFFFFFF

/-- BCD_DECODE (R140). -/
def execBcdDecode (s : State) : Out := .next (codecCommand s fun bs => some (bcdDecode bs, 0))

/-- BCD_ENCODE (R141). -/
def execBcdEncode (s : State) : Out := .next (codecCommand s fun t => (bcdEncode t).map fun r => (r, 0))

/-- BCD_TO_INT (R142). -/
def execBcdToInt (s : State) : Out :=
  .next (codecCommand s fun bs => (bcdToInt bs).map fun n => (natToDec n, saturate32 n))

/-- INT_TO_BCD (R143). -/
def execIntToBcd (s : State) : Out := .next (codecCommand s fun t => (decToNat t).map fun n => (intToBcd n, 0))

/-- HEX_ENCODE (R144). -/
def execHexEncode (s : State) : Out := .next (codecCommand s fun bs => some (hexEncode bs, 0))

/-- HEX_DECODE (R145): an odd length is refused. -/
def execHexDecode (s : State) : Out := .next (codecCommand s fun t => (hexDecode t).map fun r => (r, 0))

end Sys2Proof.Machine
end

