-- ==== Sys2Proof/Machine/Dispatch.lean ====
section
/-! DEFINITION. The dispatch of instructions to their meanings, one arm per constructor. -/

namespace Sys2Proof.Machine

def exec (i : Instr) (s : State) : Host.Outcome State Fault Refusal :=
  match i with
  | .init cat strict => Sys2Proof.Machine.execInit cat strict s
  | .decode => Sys2Proof.Machine.execDecode s
  | .build => Sys2Proof.Machine.execBuild s
  | .setStrict arg => Sys2Proof.Machine.execSetStrict arg s
  | .getStrict => Sys2Proof.Machine.execGetStrict s
  | .setMti => Sys2Proof.Machine.execSetMti s
  | .getMti => Sys2Proof.Machine.execGetMti s
  | .setBit key arg => Sys2Proof.Machine.execSetBit key arg s
  | .getBit key => Sys2Proof.Machine.execGetBit key s
  | .setFieldTxt key => Sys2Proof.Machine.execSetFieldTxt key s
  | .setFieldInt key => Sys2Proof.Machine.execSetFieldInt key s
  | .getField key => Sys2Proof.Machine.execGetField key s
  | .getDenc key => Sys2Proof.Machine.execGetDenc key s
  | .getLdisc key => Sys2Proof.Machine.execGetLdisc key s
  | .getClass key => Sys2Proof.Machine.execGetClass key s
  | .getLenc key => Sys2Proof.Machine.execGetLenc key s
  | .getMaxlen key => Sys2Proof.Machine.execGetMaxlen key s
  | .getDesc key => Sys2Proof.Machine.execGetDesc key s
  | .bcdDecode => Sys2Proof.Machine.execBcdDecode s
  | .bcdEncode => Sys2Proof.Machine.execBcdEncode s
  | .bcdToInt => Sys2Proof.Machine.execBcdToInt s
  | .intToBcd => Sys2Proof.Machine.execIntToBcd s
  | .hexEncode => Sys2Proof.Machine.execHexEncode s
  | .hexDecode => Sys2Proof.Machine.execHexDecode s
  | .dlenFixed d => Sys2Proof.Machine.execDlenFixed d s
  | .dlenAsciiLvar d => Sys2Proof.Machine.execDlenAsciiLvar d s
  | .dlenAsciiLlvar d => Sys2Proof.Machine.execDlenAsciiLlvar d s
  | .dlenAsciiLllvar d => Sys2Proof.Machine.execDlenAsciiLllvar d s
  | .dlenBcdLvar d => Sys2Proof.Machine.execDlenBcdLvar d s
  | .dlenBcdLlvar d => Sys2Proof.Machine.execDlenBcdLlvar d s
  | .dlenBcdLllvar d => Sys2Proof.Machine.execDlenBcdLllvar d s
  | .dlenBinLvar d => Sys2Proof.Machine.execDlenBinLvar d s
  | .dlenBinLlvar d => Sys2Proof.Machine.execDlenBinLlvar d s
  | .dlenBinLllvar d => Sys2Proof.Machine.execDlenBinLllvar d s
  | .dvalAsciiN d => Sys2Proof.Machine.execDvalAsciiN d s
  | .dvalAsciiTA d => Sys2Proof.Machine.execDvalAsciiTA d s
  | .dvalAsciiTS d => Sys2Proof.Machine.execDvalAsciiTS d s
  | .dvalAsciiTAn d => Sys2Proof.Machine.execDvalAsciiTAn d s
  | .dvalAsciiTAs d => Sys2Proof.Machine.execDvalAsciiTAs d s
  | .dvalAsciiTNs d => Sys2Proof.Machine.execDvalAsciiTNs d s
  | .dvalAsciiTAns d => Sys2Proof.Machine.execDvalAsciiTAns d s
  | .dvalAsciiTB d => Sys2Proof.Machine.execDvalAsciiTB d s
  | .dvalAsciiTZ d => Sys2Proof.Machine.execDvalAsciiTZ d s
  | .dvalBcdN d => Sys2Proof.Machine.execDvalBcdN d s
  | .dvalBcdZ d => Sys2Proof.Machine.execDvalBcdZ d s
  | .dvalBinN d => Sys2Proof.Machine.execDvalBinN d s
  | .dvalBinB d => Sys2Proof.Machine.execDvalBinB d s
  | .dvalBinZ d => Sys2Proof.Machine.execDvalBinZ d s
  | .bfmtFixedN d => Sys2Proof.Machine.execBfmtFixedN d s
  | .bfmtFixedTA d => Sys2Proof.Machine.execBfmtFixedTA d s
  | .bfmtFixedTS d => Sys2Proof.Machine.execBfmtFixedTS d s
  | .bfmtFixedTAn d => Sys2Proof.Machine.execBfmtFixedTAn d s
  | .bfmtFixedTAs d => Sys2Proof.Machine.execBfmtFixedTAs d s
  | .bfmtFixedTNs d => Sys2Proof.Machine.execBfmtFixedTNs d s
  | .bfmtFixedTAns d => Sys2Proof.Machine.execBfmtFixedTAns d s
  | .bfmtFixedPB d => Sys2Proof.Machine.execBfmtFixedPB d s
  | .bfmtFixedPZ d => Sys2Proof.Machine.execBfmtFixedPZ d s
  | .bfmtVarLvar d => Sys2Proof.Machine.execBfmtVarLvar d s
  | .bfmtVarLlvar d => Sys2Proof.Machine.execBfmtVarLlvar d s
  | .bfmtVarLllvar d => Sys2Proof.Machine.execBfmtVarLllvar d s
  | .bpfxAsciiLvar d => Sys2Proof.Machine.execBpfxAsciiLvar d s
  | .bpfxAsciiLlvar d => Sys2Proof.Machine.execBpfxAsciiLlvar d s
  | .bpfxAsciiLllvar d => Sys2Proof.Machine.execBpfxAsciiLllvar d s
  | .bpfxBcdLvar d => Sys2Proof.Machine.execBpfxBcdLvar d s
  | .bpfxBcdLlvar d => Sys2Proof.Machine.execBpfxBcdLlvar d s
  | .bpfxBcdLllvar d => Sys2Proof.Machine.execBpfxBcdLllvar d s
  | .bpfxBinLvar d => Sys2Proof.Machine.execBpfxBinLvar d s
  | .bpfxBinLlvar d => Sys2Proof.Machine.execBpfxBinLlvar d s
  | .bpfxBinLllvar d => Sys2Proof.Machine.execBpfxBinLllvar d s
  | .bemitAscii d => Sys2Proof.Machine.execBemitAscii d s
  | .bemitBcd d => Sys2Proof.Machine.execBemitBcd d s
  | .bemitBin d => Sys2Proof.Machine.execBemitBin d s

end Sys2Proof.Machine
end

