-- ==== Sys2Proof/Machine/HostPort.lean ====
section
/-! DEFINITION. The host's side of the framer (spec/10_state.md R35 to R47, spec/70_reset_and_hazards.md R380, R381,
R395): a write of CMD, which starts a command (R37, R300), and the other accesses to registers and buffers. -/

namespace Sys2Proof.Machine

/-- A write of the word `w` to CMD while `BUSY = 0` (R37, R300): the command runs; an unknown opcode is rejected. -/
def runCommand (w : Word) (s : State) : Out :=
  match decodeCommand w with
  | .ok i => exec i s
  | .error _ => .next (badOpcode s)

/-- A write of a length register saturates at BUF_CAP (R40, R42). -/
def saturateLen (s : State) (v : Word) : Nat := min v.toNat s.params.bufCap

/-- A register write while `BUSY = 0`: read-only registers ignore it (R35). -/
def writeRegIdle (r : RegName) (v : Word) (s : State) : Out :=
  match r with
  | .cmd => runCommand v s
  | .rxlen => .next { s with rxlen := saturateLen s v }
  | .oplen => .next { s with oplen := saturateLen s v }
  | .status | .errinfo | .txlen | .reslen | .resval | .cursor | .cfg => .next s

/-- A register write while `BUSY = 1`: CMD is dropped (R37), a length register is outside the host's contract (R395),
and a read-only register ignores it (R35). -/
def writeRegBusy (r : RegName) (s : State) : Out :=
  match r with
  | .rxlen | .oplen => .refused .hostContract
  | .cmd | .status | .errinfo | .txlen | .reslen | .resval | .cursor | .cfg => .next s

/-- What the host reads from a buffer byte: the byte, but a free value for a byte of TXBUF or RESBUF at or above the
buffer's length, which the spec leaves unspecified (R62, R64, R347; log 4). A byte of RXBUF or OPBUF at or above the
length, to which U4 of spec/93_implementation_defined.md gives any value (R47, R60), reads as it was last stored: the
model's choice (log 22). -/
def hostReadByte (b : AnyBuf) (a : Nat) (s : State) : Byte :=
  match b with
  | .rx => memRead s.rxbuf a
  | .op => memRead s.opbuf a
  | .tx => if a < s.txlen then memRead s.txbuf a else Config.freeByte s.freeCtr
  | .res => if a < s.reslen then memRead s.resbuf a else Config.freeByte s.freeCtr

/-- A host read of a buffer byte; each read may use one free value. -/
def readBufIdle (b : AnyBuf) (a : Nat) (s : State) : State :=
  { s with hostData := (hostReadByte b a s).zeroExtend 32, freeCtr := s.freeCtr + 1 }

/-- A host write of bytes to RXBUF or OPBUF (R61, R63). -/
def writeBufIdle (b : HostBuf) (addr : Nat) (bs : Bytes) (s : State) : State :=
  match b with
  | .rx => { s with rxbuf := memWriteRange s.rxbuf addr bs }
  | .op => { s with opbuf := memWriteRange s.opbuf addr bs }

/-- The reset event (R380, R381): every piece of state gets its reset value and a running command is abandoned. CATROM
and the parameters are what the framer was made with (R50); what the host still has to do is the host's (log 17). -/
def hwResetState (s : State) : State :=
  { State.reset with catrom := s.catrom, params := s.params, host := s.host, freeCtr := s.freeCtr }

/-- One action of the host. While `BUSY = 1` only STATUS may be read (R395). -/
def hostStep (a : HostAction) (s : State) : Out :=
  match a with
  | .writeReg n v =>
    match regOfNumber n with
    | none => .fault .noRegister
    | some r => if s.busy then writeRegBusy r s else writeRegIdle r v s
  | .readReg n =>
    match regOfNumber n with
    | none => .fault .noRegister
    | some r =>
      if s.busy && decide (r ≠ .status) then .refused .hostContract else .next { s with hostData := regRead s r }
  | .writeBuf b addr bs =>
    if s.busy then .refused .hostContract
    else if s.params.bufCap < addr + bs.length then .fault .bufferAddress
    else .next (writeBufIdle b addr bs s)
  | .readBuf b addr =>
    if s.busy then .refused .hostContract
    else if s.params.bufCap ≤ addr then .fault .bufferAddress
    else .next (readBufIdle b addr s)
  | .hwReset => .next (hwResetState s)

/-! ### Placing an instruction where the next step takes it -/

/-- The path whose stage it is (R105). -/
def runningOfStage : DStage → Running
  | .dlen | .dval => .decode
  | .bfmt | .bpfx | .bemit => .build

/-- A framer in the FIELD phase about to run the stage `st` of a field whose descriptor is `d`. The field is the one
FIDX names, or field 2 where FIDX names no data field. -/
def atStage (st : DStage) (d : Word) (s : State) : State :=
  { s with
    host := []
    busy := true
    phase := .field
    running := runningOfStage st
    fidx := if 2 ≤ s.fidx ∧ s.fidx ≤ 128 then s.fidx else 2
    stage := some st
    desc := d }

/-- A framer that is not busy and whose host is about to write the word to CMD. -/
def atCommand (w : Word) (s : State) : State := { s with host := .writeReg 0 w :: s.host, busy := false }

/-- Place an instruction word (log 8, log 9). -/
def placeWord (nbits w : Nat) (s : State) : State :=
  match (decodeTableWord nbits w).map Instr.format with
  | some (.d st) => atStage st (BitVec.ofNat 32 w) s
  | _ => atCommand (BitVec.ofNat 32 w) s

/-- One step of the framer: the host's next action, or a step of the running sequencer, or nothing (R381: idle). -/
def stepOf (s : State) : Out :=
  match s.host with
  | a :: rest => hostStep a { s with host := rest }
  | [] => if s.busy then seqStep s else .next s

end Sys2Proof.Machine
end

