-- ==== Sys2Proof/Machine/Assembler.lean ====
section
/-! DEFINITION. The assembler syntax of host programs (spec/30_encoding.md R120) and the pseudo-commands (R121), as
expansions into host actions. -/

namespace Sys2Proof.Machine

/-- A line of a host program. -/
inductive AsmLine where
  /-- `RX <bytes>`. -/
  | rx (bs : List (BitVec 8))
  /-- `OP <bytes>`. -/
  | op (bs : List (BitVec 8))
  /-- A command of the opcode map, by its instruction. -/
  | cmd (i : Instr)
  /-- `WORD 0x...`: a raw write of CMD. -/
  | word (w : BitVec 32)
  /-- `CLR_BIT f`. -/
  | clrBit (f : BitVec 8)
  /-- `SET_MTI "t"`. -/
  | setMtiText (t : List (BitVec 8))
  /-- `SET_FIELD f, "t"`. -/
  | setFieldText (f : BitVec 8) (t : List (BitVec 8))
  /-- `SET_FIELD f, n`. -/
  | setFieldNat (f : BitVec 8) (n : Nat)
  /-- A primitive codec with its operand. -/
  | codec (i : Instr) (operand : List (BitVec 8))
  /-- `NOP`. -/
  | nop
deriving DecidableEq, Repr

/-- `OP <bytes>` (R120): OPBUF[0..) <- bytes; OPLEN <- their count. -/
def opDirective (bs : Bytes) : List HostAction :=
  [.writeBuf .op 0 bs, .writeReg 5 (BitVec.ofNat 32 bs.length)]

/-- `RX <bytes>` (R120): RXBUF[0..) <- bytes; RXLEN <- their count. -/
def rxDirective (bs : Bytes) : List HostAction :=
  [.writeBuf .rx 0 bs, .writeReg 3 (BitVec.ofNat 32 bs.length)]

/-- A command line (R120): a write of its word to CMD. -/
def cmdAction (i : Instr) : HostAction := .writeReg 0 (encode i)

/-- The host actions of a line (R120, R121). -/
def assemble : AsmLine → List HostAction
  | .rx bs => rxDirective bs
  | .op bs => opDirective bs
  | .cmd i => [cmdAction i]
  | .word w => [.writeReg 0 w]
  | .clrBit f => [cmdAction (.setBit f 0)]
  | .setMtiText t => opDirective t ++ [cmdAction .setMti]
  | .setFieldText f t => opDirective t ++ [cmdAction (.setFieldTxt f)]
  | .setFieldNat f n => opDirective (natToDec n) ++ [cmdAction (.setFieldInt f)]
  | .codec i t => opDirective t ++ [cmdAction i]
  | .nop => [cmdAction .getStrict]

end Sys2Proof.Machine
end

