-- ==== Sys2Proof/Machine/Step.lean ====
section
/-! DEFINITION. The step function and the placing of an instruction where the step takes it. -/

namespace Sys2Proof.Machine

/-- One step of the framer. -/
def step (s : State) : Host.Outcome State Fault Refusal := stepOf s

/-- The state with an instruction placed where the next step takes it (log 8, log 9). -/
def State.withFetchWord (s : State) (nbits w : Nat) : State := placeWord nbits w s

end Sys2Proof.Machine
end

