-- ==== Sys2Proof/Safety.lean ====
section
/-! DEFINITION. The terms in which claims about the framer are stated: how a command ends, what a store and a field
leave alone, the invariant of every step, and the reference functions of the two paths as functions on byte strings
(spec/44_decode.md R243, spec/45_build.md R286), written from the rules and not from the sequencer. -/

namespace Sys2Proof.Machine

/-! ### How a command ends -/

/-- The state in which a command that started in `s` has ended normally and has changed nothing else: STATUS OK, no
result, no error information (R300), and the sequencer idle with its latches empty (log 10). -/
def State.okEnd (s : State) : State :=
  { s with
    kind := .ok, cause := .none, ekey := none, errinfo := 0, reslen := 0, resval := 0
    phase := .idle, busy := false, running := .none, stage := none, desc := 0, len := 0, txt := [] }

/-- The state in which a `raise` has ended a command and nothing else has changed (R340); what happens to TXLEN and
ERRINFO each claim says beside it. -/
def State.errEnd (s : State) (k : Kind) (c : Cause) (key : Option Nat) : State :=
  { s with
    kind := k, cause := c, ekey := key, reslen := 0, resval := 0
    phase := .idle, busy := false, running := .none, stage := none, desc := 0, len := 0, txt := [] }

/-- The outcome is a next state, and that state is `u`, but for the model's own latches (log 10), of which nothing is
said. -/
def EndsAs (o : Out) (u : State) : Prop :=
  ∃ t, o = .next t ∧
    t = { u with running := t.running, stage := t.stage, desc := t.desc, len := t.len, txt := t.txt }

/-! ### Stores -/

/-- `m'` is `m` with the bytes `v` at the addresses from `addr` up; every other address reads as before. -/
def Stored (m m' : Memory) (addr : Nat) (v : Bytes) : Prop :=
  memReadRange m' addr v.length = v ∧ ∀ a, a < addr ∨ addr + v.length ≤ a → memRead m' a = memRead m a

/-- The command answers the byte string `v` in RESBUF and the scalar `rv` (R69, R43, R44), ends normally in a next
state, and changes nothing else. -/
def Answers (s : State) (o : Out) (v : Bytes) (rv : Word) : Prop :=
  ∃ m, EndsAs o { s.okEnd with resbuf := m, reslen := v.length, resval := rv } ∧ Stored s.resbuf m 0 v

/-- The state in which `v` has been emitted (R68): at TXLEN, which grows by its length; `t` says what else changed. -/
def Emitted (s t : State) (v : Bytes) : Prop := t.txlen = s.txlen + v.length ∧ Stored s.txbuf t.txbuf s.txlen v

/-! ### From field to field -/

/-- After field `f` (R31): FIDX goes to the least present field above `f`, or the sequencer is in DONE. That FIDX then
keeps its value in DONE, where it is meaningless (R33), is the model's choice (log 6). -/
def GoesOn (s : State) (f : Nat) (t : State) : Prop :=
  (∃ g, f < g ∧ g ≤ 128 ∧ presBit s.pres g = true ∧ (∀ h, f < h → h < g → presBit s.pres h = false) ∧
      t.phase = .field ∧ t.fidx = g) ∨
    ((∀ h, f < h → h ≤ 128 → presBit s.pres h = false) ∧ t.phase = .done ∧ t.fidx = s.fidx)

/-- The field FIDX got the value `v` and is done, the cursor having moved by `n` (R223, R229): no other slot, no byte
and no other piece of state changes. -/
def FieldStored (s t : State) (n : Nat) (v : Value) : Prop :=
  t = { s with cursor := s.cursor + n, vals := t.vals, phase := t.phase, fidx := t.fidx, stage := none } ∧
    t.val s.fidx = v ∧ (∀ g, g ≠ s.fidx → t.val g = s.val g) ∧ GoesOn s s.fidx t

/-! ### The invariant -/

/-- The pairs of STATUS.KIND and STATUS.CAUSE that R341 and R342 allow. -/
def statusLegal (k : Kind) (c : Cause) : Bool :=
  match c with
  | .none => k == .ok
  | .seUnbound | .seNoCatalog | .seNoEntry | .seChkLenc | .seChkClass | .seChkAscii | .seChkBinBcd | .seChkDenc
  | .seHdrEnc => k == .specError
  | .peUnderrun | .peBitmapHex | .peLenNonnum | .peLenTooLarge | .peValue => k == .parseError
  | .mtiNonnum | .mtiStrictClass | .mtiStrictOrigin | .mtiVersion | .mtiClass | .mtiFunction | .mtiOrigin =>
    k == .parseError || k == .reject
  | .beMtiUnset | .beMtiInvalid | .beNoValue | .beTooLong | .beFixedLen | .bePrefixOvf | .beValueEnc | .beTxOvf =>
    k == .buildError
  | .rjBadOpcode | .rjKeyRange | .rjBitValue | .rjMtiLen | .rjValueTooLong | .rjOperand => k == .reject

/-- What every step keeps. -/
structure State.Inv (s : State) : Prop where
  /-- The buffers are in canonical form. -/
  rxWf : MemoryWf s.rxbuf
  txWf : MemoryWf s.txbuf
  opWf : MemoryWf s.opbuf
  resWf : MemoryWf s.resbuf
  /-- The slots are in canonical form and there are none but VAL[2..128] (R24). -/
  valsWf : SparseWf Value.absent s.vals
  valsKeys : ∀ p ∈ s.vals, 2 ≤ p.1 ∧ p.1 ≤ 128
  /-- No length and no cursor exceeds BUF_CAP (R30, R40 to R43). -/
  rxlenCap : s.rxlen ≤ s.params.bufCap
  txlenCap : s.txlen ≤ s.params.bufCap
  oplenCap : s.oplen ≤ s.params.bufCap
  reslenCap : s.reslen ≤ s.params.bufCap
  cursorCap : s.cursor ≤ s.params.bufCap
  /-- A valid MTI passed the validator (R22). -/
  mtiLegal : s.mtiValid = true → mtiCheck (mtiBytes s.mti) false = none
  /-- A bound catalog is one of the three and passed the consistency check (R26, R161). -/
  boundChecked : s.bound = true → s.catsel ≠ 3 ∧ catCheck s.catrom s.catsel = none
  /-- PHASE is IDLE exactly when no command runs (R33), and only a bound framer runs one (R300). -/
  idlePhase : s.busy = false ↔ s.phase = .idle
  idleRunning : s.busy = false ↔ s.running = .none
  busyBound : s.busy = true → s.bound = true
  /-- While a command runs, the results are as the frame left them (R300). -/
  busyResults : s.busy = true → s.reslen = 0 ∧ s.resval = 0 ∧ s.errinfo = 0
  /-- In phase FIELD, FIDX is a present data field (R30, R31). -/
  fieldPresent : s.phase = .field → 2 ≤ s.fidx ∧ s.fidx ≤ 128 ∧ presBit s.pres s.fidx = true
  /-- The model's latches (log 10). -/
  idleLatches : s.busy = false → s.stage = none ∧ s.desc = 0 ∧ s.len = 0 ∧ s.txt = []
  stageField : s.stage ≠ none → s.phase = .field
  stagePath : ∀ st, s.stage = some st → s.running = runningOfStage st
  stageDesc : s.stage ≠ none → s.desc = s.catWord s.fidx ∧ descV s.desc = true
  prefixVar : s.stage = some .bpfx → descLdisc s.desc ≠ 0
  valueLen : s.stage = some .dval → 1 ≤ s.len ∧ s.len ≤ descEffmax s.desc
  /-- STATUS reports a kind, a cause and a key that go together (R38, R341, R342). -/
  statusOk : statusLegal s.kind s.cause = true
  okKey : s.kind = .ok → s.ekey = none
  keyRange : ∀ k, s.ekey = some k → k ≤ 128

/-! ### Many steps -/

/-- `n` steps, ending at the first fault or refusal. -/
def runSteps : Nat → State → Out
  | 0, s => .next s
  | n + 1, s =>
    match step s with
    | .next s' => runSteps n s'
    | o => o

/-! ### The decode path on byte strings (R243)

`none` stands for a message on which DECODE raises. A result carries the bytes that are left. -/

/-- The first `n` bytes and the rest (R66). -/
def splitBytes (n : Nat) (bs : Bytes) : Option (Bytes × Bytes) :=
  if n ≤ bs.length then some (bs.take n, bs.drop n) else none

/-- The MTI (R201, R207), `d` being the descriptor of key 0. -/
def parseMti (d : Word) (strict : Bool) (bs : Bytes) : Option (Bytes × Bytes) :=
  let read : Option (Bytes × Bytes) :=
    match descEnc d with
    | some .bcd => (splitBytes 2 bs).map fun p => (bcdDecode p.1, p.2)
    | some .ascii => splitBytes 4 bs
    | _ => none
  if descV d then read.filter fun p => (mtiCheck p.1 strict).isNone else none

/-- One bitmap word (R181), `d` being the descriptor of key 1. -/
def parseWord (d : Word) (bs : Bytes) : Option (BitmapWord × Bytes) :=
  if descV d then
    match descEnc d with
    | some .bin => (splitBytes 8 bs).map fun p => (wordOfBytes p.1, p.2)
    | some .ascii => (splitBytes 16 bs).bind fun p => (hexDecode p.1).map fun b => (wordOfBytes b, p.2)
    | _ => none
  else none

/-- The presence map (R182): a second word follows exactly when bit 63 of the first is 1. -/
def parseBitmap (d : Word) (bs : Bytes) : Option (BitVec 128 × Bytes) :=
  (parseWord d bs).bind fun p =>
    if p.1.getLsbD 63 then (parseWord d p.2).map fun q => (presOfWords p.1 q.1, q.2)
    else some (presOfWords p.1 0, p.2)

/-! ### How the MTI and the BITMAP phase fail

`none` stands for a phase that does not fail in this way. The checks stand in the order of
spec/60_exceptions.md R344. -/

/-- How a phase raises: the kind and the cause (spec/60_exceptions.md R342), the number of bytes that it took from
RXBUF before (R32), and ERRINFO (R39). -/
structure HeaderFailure where
  kind : Kind
  cause : Cause
  taken : Nat := 0
  errinfo : Word := 0
deriving DecidableEq, Repr

/-- The failure as STATUS, ERRINFO and CURSOR report it, for the item of the key `key` at the address `start`. -/
def HeaderFailure.ReportedIn (e : HeaderFailure) (key start : Nat) (t : State) : Prop :=
  t.kind = e.kind ∧ t.cause = e.cause ∧ t.ekey = some key ∧ t.errinfo = e.errinfo ∧ t.cursor = start + e.taken

/-- The key has no descriptor (R150). -/
def noEntryFailure : HeaderFailure := { kind := .specError, cause := .seNoEntry }

/-- The header's encoding is one that its item does not admit (R164). -/
def headerEncodingFailure : HeaderFailure := { kind := .specError, cause := .seHdrEnc }

/-- Fewer bytes are left than the item takes (R66, R67). -/
def underrunFailure : HeaderFailure := { kind := .parseError, cause := .peUnderrun }

/-- A received MTI of `n` bytes whose characters `text` gives (R207). -/
def mtiTextFailure (n : Nat) (text : Bytes → Bytes) (strict : Bool) (bs : Bytes) : Option HeaderFailure :=
  if bs.length < n then some underrunFailure
  else (mtiCheck (text (bs.take n)) strict).map fun c =>
    { kind := .parseError, cause := c, taken := n, errinfo := packText (text (bs.take n)) }

/-- How the MTI phase of DECODE fails (R201, R207) on the bytes `bs`, `d` being the descriptor of key 0. -/
def mtiFailure (d : Word) (strict : Bool) (bs : Bytes) : Option HeaderFailure :=
  if descV d then
    match descEnc d with
    | some .bcd => mtiTextFailure 2 bcdDecode strict bs
    | some .ascii => mtiTextFailure 4 id strict bs
    | _ => some headerEncodingFailure
  else some noEntryFailure

/-- How the read of a bitmap word fails (R181) on the bytes `bs`, `d` being the descriptor of key 1. -/
def wordFailure (d : Word) (bs : Bytes) : Option HeaderFailure :=
  if descV d then
    match descEnc d with
    | some .bin => if bs.length < 8 then some underrunFailure else none
    | some .ascii =>
      if bs.length < 16 then some underrunFailure
      else if (bs.take 16).all (fun c => (nibval c).isSome) then none
      else some { kind := .parseError, cause := .peBitmapHex, taken := 16 }
    | _ => some headerEncodingFailure
  else some noEntryFailure

/-- How the MTI phase of BUILD fails (R210), the capacity of TXBUF apart. -/
def buildMtiFailure (d : Word) (strict valid : Bool) (m : Mti) : Option HeaderFailure :=
  if descV d then
    if valid then
      if mtiCheck (mtiBytes m) strict = none then
        match descEnc d with
        | some .bcd => none
        | some .ascii => none
        | _ => some headerEncodingFailure
      else some { kind := .buildError, cause := .beMtiInvalid, errinfo := packText (mtiBytes m) }
    else some { kind := .buildError, cause := .beMtiUnset }
  else some noEntryFailure

/-- How the emission of a bitmap word fails (R187), the capacity of TXBUF apart. -/
def buildWordFailure (d : Word) : Option HeaderFailure :=
  if descV d then
    match descEnc d with
    | some .bin => none
    | some .ascii => none
    | _ => some headerEncodingFailure
  else some noEntryFailure

/-! ### The fields of the decode path -/

/-- The number of digits of a prefix (spec/00_scope.md R14). -/
def prefixDigits : Disc → Nat
  | .fixed => 0
  | .lvar => 1
  | .llvar => 2
  | .lllvar => 3

/-- The width of a prefix in bytes (R113). -/
def prefixWidth (d : Word) : Nat :=
  if encOfCode (descLenc d) = some .bcd then ceil2 (prefixDigits (discOfCode (descLdisc d)))
  else prefixDigits (discOfCode (descLdisc d))

/-- The number that the bytes of a prefix stand for (R225 to R227). -/
def prefixValue (mode : Config.BinLenMode) (d : Word) (bs : Bytes) : Option Nat :=
  match encOfCode (descLenc d), mode with
  | some .ascii, _ => decToNat bs
  | some .bcd, _ => decToNat (bcdDecode bs)
  | some .bin, .beBytes => some (beNat bs)
  | some .bin, .refuse => none
  | none, _ => none

/-- The length of a field (R224 to R228). -/
def parseLength (mode : Config.BinLenMode) (d : Word) (bs : Bytes) : Option (Nat × Bytes) :=
  if discOfCode (descLdisc d) = .fixed then some (descEffmax d, bs)
  else
    (splitBytes (prefixWidth d) bs).bind fun p =>
      ((prefixValue mode d p.1).filter fun n => decide (n ≤ descEffmax d)).map fun n => (n, p.2)

/-- The bytes that a value of length `n` takes (R114). -/
def valueWidth (d : Word) (n : Nat) : Nat := if descEnc d = some .bcd then ceil2 n else n

/-- The value that the bytes of a field stand for (R234 to R238); a pair of encoding and class outside R104 has none
(R239). -/
def valueOfBytes (d : Word) (bs : Bytes) : Option Value :=
  match descEnc d, descClass d with
  | some .ascii, some .clsN => (decToNat bs).map .int
  | some .ascii, some _ => some (.text bs)
  | some .bcd, some .clsN => (decToNat (bcdDecode bs)).map .int
  | some .bcd, some .clsZ => some (.text (trackDecode (hexEncode bs)))
  | some .bin, some .clsN => some (.text (hexEncode bs))
  | some .bin, some .clsB => some (.text (hexEncode bs))
  | some .bin, some .clsZ => some (.text (hexEncode bs))
  | _, _ => none

/-- One field (R223, R229). -/
def parseField (mode : Config.BinLenMode) (d : Word) (bs : Bytes) : Option (Value × Bytes) :=
  if descV d then
    (parseLength mode d bs).bind fun p =>
      if p.1 = 0 then some (.absent, p.2)
      else (splitBytes (valueWidth d p.1) p.2).bind fun q => (valueOfBytes d q.1).map fun v => (v, q.2)
  else none

/-- The fields of a list, in its order (R220): the slots that are not Absent, and the bytes that are left. -/
def parseFields (mode : Config.BinLenMode) (word : Nat → Word) : List Nat → Bytes → Option (List (Nat × Value) × Bytes)
  | [], bs => some ([], bs)
  | f :: fs, bs =>
    (parseField mode (word f) bs).bind fun p =>
      (parseFields mode word fs p.2).map fun q => (if p.1 = .absent then q.1 else (f, p.1) :: q.1, q.2)

/-- The present data fields, ascending (R31). -/
def presentFields (p : BitVec 128) : List Nat := (List.range' 2 127).filter (presBit p)

/-- A message: the MTI, the presence map and the slots that are not Absent. -/
structure Message where
  mti : Mti
  pres : BitVec 128
  vals : List (Nat × Value)
deriving DecidableEq, Repr

/-- The whole message (R220): what DECODE stores, and the bytes behind the message. -/
def parseMessage (mode : Config.BinLenMode) (word : Nat → Word) (strict : Bool) (bs : Bytes) :
    Option (Message × Bytes) :=
  (parseMti (word 0) strict bs).bind fun a =>
    (parseBitmap (word 1) a.2).bind fun b =>
      (parseFields mode word (presentFields b.1) b.2).map fun c =>
        ({ mti := mtiOfBytes a.1, pres := b.1, vals := c.1 }, c.2)

/-- What DECODE reads (R61): the bytes of RXBUF below RXLEN. -/
def State.received (s : State) : Bytes := memReadRange s.rxbuf 0 s.rxlen

/-- The message in the bytes received, under the bound catalog and STRICT. -/
def State.parse (s : State) : Option (Message × Bytes) :=
  parseMessage s.params.binLenMode s.catWord s.strict s.received

/-! ### The build path on byte strings (R286)

`none` stands for a state in which BUILD raises for a reason other than the capacity of TXBUF. -/

/-- The MTI (R210), `d` being the descriptor of key 0. -/
def buildMti (d : Word) (strict valid : Bool) (m : Mti) : Option Bytes :=
  if descV d ∧ valid ∧ mtiCheck (mtiBytes m) strict = none then
    match descEnc d with
    | some .bcd => bcdEncode (mtiBytes m)
    | some .ascii => some (mtiBytes m)
    | _ => none
  else none

/-- The presence map with PRES[1] forced to 1 when a field above 64 is present (R186). -/
def activated (p : BitVec 128) : BitVec 128 := if secondaryWord p = 0 then p else presSet p 1 true

/-- One bitmap word (R187), `d` being the descriptor of key 1. -/
def buildWord (d : Word) (w : BitmapWord) : Option Bytes :=
  if descV d then
    match descEnc d with
    | some .bin => some (bytesOfWord w)
    | some .ascii => some (hexEncode (bytesOfWord w))
    | _ => none
  else none

/-- The bitmap of a presence map (R188). -/
def buildBitmap (d : Word) (p : BitVec 128) : Option Bytes :=
  (buildWord d (primaryWord p)).bind fun a =>
    if presBit p 1 then (buildWord d (secondaryWord p)).map fun b => a ++ b else some a

/-- The formatted text of a value (R264 to R266, R272); a FIXED field must have a value. -/
def fieldText (d : Word) (v : Value) : Option Bytes :=
  if discOfCode (descLdisc d) = .fixed then
    match v, descClass d with
    | .absent, _ => none
    | v, some .clsN => some (padL (str v) 0x30 (descMax d))
    | v, some .clsB => some (str v)
    | v, some .clsZ => some (str v)
    | v, some _ => some (padL (str v) 0x20 (descMax d))
    | _, none => none
  else some (varText d v)

/-- The length of a formatted text against the maximum (R267, R273). -/
def fieldLength (d : Word) (t : Bytes) : Option Nat :=
  (measureText d t).filter fun n =>
    if discOfCode (descLdisc d) = .fixed then decide (n = descEffmax d) else decide (n ≤ descEffmax d)

/-- The length prefix (R274 to R276); a FIXED field has none (R113). -/
def buildPrefix (mode : Config.BinLenMode) (d : Word) (n : Nat) : Option Bytes :=
  let w := prefixDigits (discOfCode (descLdisc d))
  if discOfCode (descLdisc d) = .fixed then some []
  else
    match encOfCode (descLenc d), mode with
    | some .ascii, _ => if n < 10 ^ w then some (lengthText w n) else none
    | some .bcd, _ => if n < 10 ^ w then bcdEncode (lengthText w n) else none
    | some .bin, .beBytes => if n < 256 ^ w then some (beBytes w n) else none
    | some .bin, .refuse => none
    | none, _ => none

/-- The value bytes (R280 to R282). -/
def packValue (d : Word) (t : Bytes) : Option Bytes :=
  match descEnc d with
  | some .ascii => some t
  | some .bcd => bcdEncode t
  | some .bin => hexDecode t
  | none => none

/-- One field (R263). -/
def buildField (mode : Config.BinLenMode) (d : Word) (v : Value) : Option Bytes :=
  if descV d then
    (fieldText d v).bind fun t =>
      (fieldLength d t).bind fun n =>
        (buildPrefix mode d n).bind fun a => (packValue d t).map fun b => a ++ b
  else none

/-- The fields of a list, in its order (R260). -/
def buildFields (mode : Config.BinLenMode) (word : Nat → Word) (val : Nat → Value) : List Nat → Option Bytes
  | [] => some []
  | f :: fs => (buildField mode (word f) (val f)).bind fun a => (buildFields mode word val fs).map fun b => a ++ b

/-- The wire message of the state (R286). -/
def State.wire (s : State) : Option Bytes :=
  (buildMti (s.catWord 0) s.strict s.mtiValid s.mti).bind fun a =>
    (buildBitmap (s.catWord 1) (activated s.pres)).bind fun b =>
      (buildFields s.params.binLenMode s.catWord s.val (presentFields s.pres)).map fun c => a ++ b ++ c

/-! ### What DECODE gives for what BUILD emitted (R287) -/

/-- A text of odd length with a zero digit in front. -/
def evenText (t : Bytes) : Bytes := if t.length % 2 = 1 then 0x30#8 :: t else t

/-- The table of R287: the value that comes back for a field whose formatted text is `t`; `none` where DECODE raises
PE_VALUE. -/
def readBack (d : Word) (t : Bytes) : Option Value :=
  if measureText d t = some 0 then some .absent
  else
    match descEnc d, descClass d with
    | some .ascii, some .clsN => (decToNat t).map .int
    | some .bcd, some .clsN => (decToNat (upperHex (evenText t))).map .int
    | some .bcd, _ => some (.text (trackDecode (upperHex (evenText t))))
    | some .bin, _ => some (.text (upperHex t))
    | _, _ => some (.text t)

end Sys2Proof.Machine
end

