-- ==== Sys2Proof/Certificates/Slice0/Obligations.lean ====
section
/-! DEFINITION. The statements about the framer, for the provers. Each docstring names the rules of spec/ that the
statement rests on. A statement about an instruction gives the whole next state as an update of the state it started
from, so it is a frame as well: what it does not name is unchanged. Bytes of a buffer that is written are stated
through the read of one byte (`Stored`, `Emitted`, `Answers` of Sys2Proof/Safety.lean). `okEnd` and `errEnd` are the two
ways a command ends; they clear the model's own latches, which is the model's choice (log 10), and `EndsAs` says
nothing of those. -/

section Slice0Obligations

open Sys2Proof Sys2Proof.Machine

/-! ### Reset, the step, the registers -/

/-- spec/10_state.md R50: every value that the table gives; and after reset every command but INIT and the six
primitive codecs raises SpecError. -/
def Obligations.ResetValues : Prop :=
  State.reset.mtiValid = false ∧ (∀ i, presBit State.reset.pres i = false) ∧
    (∀ f, State.reset.val f = .absent) ∧ State.reset.strict = false ∧ State.reset.catsel = 3 ∧
    State.reset.bound = false ∧ State.reset.phase = .idle ∧ State.reset.cursor = 0 ∧ State.reset.kind = .ok ∧
    State.reset.busy = false ∧ State.reset.cause = .none ∧ ekeyCode State.reset.ekey = 0xFF ∧
    State.reset.errinfo = 0 ∧ State.reset.resval = 0 ∧ State.reset.rxlen = 0 ∧ State.reset.txlen = 0 ∧
    State.reset.oplen = 0 ∧ State.reset.reslen = 0 ∧ State.reset.catrom = Config.catRom.rom ∧
    ∀ key arg, ∀ i ∈ [Instr.decode, .build, .setStrict arg, .getStrict, .setMti, .getMti, .setBit key arg,
      .getBit key, .setFieldTxt key, .setFieldInt key, .getField key, .getDenc key, .getLdisc key, .getClass key,
      .getLenc key, .getMaxlen key, .getDesc key],
      ∃ t, exec i State.reset = .next t ∧ t.kind = .specError

/-- The invariant (`State.Inv`) holds after reset. -/
def Obligations.InvAtReset : Prop := State.reset.Inv

/-- Every step, of the host or of the sequencer, keeps the invariant (`State.Inv`): buffers and slots in canonical
form, lengths and cursor within BUF_CAP, a valid MTI legal, a bound catalog checked, PHASE, BUSY, FIDX and the latches
consistent, STATUS one of the pairs of R341 and R342. -/
def Obligations.StepKeepsInv : Prop := ∀ s t, s.Inv → step s = .next t → t.Inv

/-- spec/10_state.md R37, spec/46_accessors.md R300: a CMD write that a framer that is not busy takes runs the
instruction of the word; the step takes the host's action off the list (the model's, log 8) and does nothing else. -/
def Obligations.StepRunsCommand : Prop :=
  ∀ s w rest i, s.busy = false → s.host = .writeReg 0 w :: rest → decodeCommand w = .ok i →
    step s = exec i { s with host := rest }

/-- spec/30_encoding.md R105: while the sequencer is at a stage of a field and the host does nothing, the step runs
the micro-operation that the field's descriptor selects at that stage, and does nothing else. The stage and the latched
descriptor are the model's (log 7, log 10). -/
def Obligations.StepRunsMicroOp : Prop :=
  ∀ s st i, s.busy = true → s.host = [] → s.phase = .field → s.stage = some st → decodeMicro st s.desc = .ok i →
    step s = exec i s

/-- spec/44_decode.md R223, spec/45_build.md R263: a field begins with the lookup of its descriptor; a field without
an entry ends the command with SE_NO_ENTRY before anything of it is read or emitted. -/
def Obligations.StepReadsDescriptor : Prop :=
  ∀ s, s.busy = true → s.host = [] → s.phase = .field → s.stage = none →
    (descV (s.catWord s.fidx) = true → s.running = .decode →
      step s = .next { s with desc := s.catWord s.fidx, stage := some .dlen }) ∧
    (descV (s.catWord s.fidx) = true → s.running = .build →
      step s = .next { s with desc := s.catWord s.fidx, stage := some .bfmt }) ∧
    (descV (s.catWord s.fidx) = false → s.running = .decode →
      step s = .next (s.errEnd .specError .seNoEntry (some s.fidx))) ∧
    (descV (s.catWord s.fidx) = false → s.running = .build →
      step s = .next { s.errEnd .specError .seNoEntry (some s.fidx) with txlen := 0 })

/-- spec/10_state.md R35, R37, R40, R42: a write of CMD while busy is dropped; a write of RXLEN or OPLEN saturates at
BUF_CAP; a read-only register ignores a write. -/
def Obligations.HostRegisterWrites : Prop :=
  ∀ s v rest,
    (s.busy = true → s.host = .writeReg 0 v :: rest → step s = .next { s with host := rest }) ∧
    (s.busy = false → s.host = .writeReg 3 v :: rest →
      step s = .next { s with host := rest, rxlen := min v.toNat s.params.bufCap }) ∧
    (s.busy = false → s.host = .writeReg 5 v :: rest →
      step s = .next { s with host := rest, oplen := min v.toNat s.params.bufCap }) ∧
    ∀ n ∈ [1, 2, 4, 6, 7, 8, 9], s.host = .writeReg n v :: rest → step s = .next { s with host := rest }

/-- spec/10_state.md R35, R39 to R47, spec/20_memory.md R60 to R64: what the host reads from the registers but STATUS
of a framer that is not busy, and what it writes to and reads from the buffers; a byte of a buffer at or above its length
may read as anything (log 4, log 22). spec/70_reset_and_hazards.md R380, R381: the reset event in any state, a busy one
too; it leaves open what the rules leave open, and keeps CATROM, the parameters and the host's other actions (log 17). That
a register or an address that does not exist faults (log 14), and that the accesses of a busy framer that R395 forbids
are refused (log 13), is the model's choice; so is the list of host actions (log 8). -/
def Obligations.HostAccesses : Prop :=
  ∀ s rest,
    (s.busy = false →
      (∀ x ∈ [(0, 0), (2, s.errinfo), (3, BitVec.ofNat 32 s.rxlen), (4, BitVec.ofNat 32 s.txlen),
          (5, BitVec.ofNat 32 s.oplen), (6, BitVec.ofNat 32 s.reslen), (7, s.resval),
          (8, (BitVec.ofNat 16 s.cursor).zeroExtend 32), (9, s.catsel.zeroExtend 32)],
        s.host = .readReg x.1 :: rest → step s = .next { s with host := rest, hostData := x.2 }) ∧
      (∀ addr bs, addr + bs.length ≤ s.params.bufCap →
        (s.host = .writeBuf .rx addr bs :: rest →
          ∃ m, step s = .next { s with host := rest, rxbuf := m } ∧ Stored s.rxbuf m addr bs) ∧
        (s.host = .writeBuf .op addr bs :: rest →
          ∃ m, step s = .next { s with host := rest, opbuf := m } ∧ Stored s.opbuf m addr bs)) ∧
      (∀ a, a < s.params.bufCap →
        ∀ x ∈ [(AnyBuf.rx, s.rxbuf, s.rxlen), (.tx, s.txbuf, s.txlen), (.op, s.opbuf, s.oplen),
            (.res, s.resbuf, s.reslen)],
          s.host = .readBuf x.1 a :: rest →
          ∃ b : Byte, ∃ c, step s = .next { s with host := rest, hostData := b.zeroExtend 32, freeCtr := c } ∧
            (a < x.2.2 → b = memRead x.2.1 a)) ∧
      (∀ b addr bs, s.params.bufCap < addr + bs.length → s.host = .writeBuf b addr bs :: rest →
        step s = .fault .bufferAddress) ∧
      ∀ b a, s.params.bufCap ≤ a → s.host = .readBuf b a :: rest → step s = .fault .bufferAddress) ∧
    (∀ n v, 9 < n → s.host = .readReg n :: rest ∨ s.host = .writeReg n v :: rest → step s = .fault .noRegister) ∧
    (s.busy = true →
      (∀ n ∈ [0, 2, 3, 4, 5, 6, 7, 8, 9], s.host = .readReg n :: rest → step s = .refused .hostContract) ∧
      (∀ n ∈ [3, 5], ∀ v, s.host = .writeReg n v :: rest → step s = .refused .hostContract) ∧
      (∀ b addr bs, s.host = .writeBuf b addr bs :: rest → step s = .refused .hostContract) ∧
      ∀ b a, s.host = .readBuf b a :: rest → step s = .refused .hostContract) ∧
    (s.host = .hwReset :: rest →
      ∃ t, step s = .next t ∧
        t = { State.reset with
          catrom := s.catrom, params := s.params, host := rest, mti := t.mti, fidx := t.fidx, rxbuf := t.rxbuf
          txbuf := t.txbuf, opbuf := t.opbuf, resbuf := t.resbuf, hostData := t.hostData, freeCtr := t.freeCtr })

/-- spec/10_state.md R38: the fields of STATUS at their bits, with the number of each kind and each cause (R341, R342 of
spec/60_exceptions.md); the host reads it at any time; after reset it is 0x00FF0000 (spec/70_reset_and_hazards.md
R380). -/
def Obligations.StatusRegister : Prop :=
  (∀ s, (s.kind, ((statusWord s).extractLsb' 0 3).toNat) ∈
        [(Kind.ok, 0), (.specError, 1), (.parseError, 2), (.buildError, 3), (.reject, 4)] ∧
      (statusWord s).getLsbD 3 = s.busy ∧
      (statusWord s).getLsbD 4 = s.bound ∧ (statusWord s).getLsbD 5 = s.strict ∧
      (statusWord s).getLsbD 6 = s.mtiValid ∧ (statusWord s).getLsbD 7 = false ∧
      (s.cause, ((statusWord s).extractLsb' 8 8).toNat) ∈
        [(Cause.none, 0x00), (.seUnbound, 0x10), (.seNoCatalog, 0x11), (.seNoEntry, 0x12), (.seChkLenc, 0x13),
          (.seChkClass, 0x14), (.seChkAscii, 0x15), (.seChkBinBcd, 0x16), (.seChkDenc, 0x17), (.seHdrEnc, 0x18),
          (.peUnderrun, 0x20), (.mtiNonnum, 0x21), (.mtiStrictClass, 0x22), (.mtiStrictOrigin, 0x23),
          (.mtiVersion, 0x24), (.mtiClass, 0x25), (.mtiFunction, 0x26), (.mtiOrigin, 0x27), (.peBitmapHex, 0x28),
          (.peLenNonnum, 0x29), (.peLenTooLarge, 0x2A), (.peValue, 0x2B), (.beMtiUnset, 0x30), (.beMtiInvalid, 0x31),
          (.beNoValue, 0x32), (.beTooLong, 0x33), (.beFixedLen, 0x34), (.bePrefixOvf, 0x35), (.beValueEnc, 0x36),
          (.beTxOvf, 0x37), (.rjBadOpcode, 0x40), (.rjKeyRange, 0x41), (.rjBitValue, 0x42), (.rjMtiLen, 0x44),
          (.rjValueTooLong, 0x46), (.rjOperand, 0x47)] ∧
      (s.ekey = none → (statusWord s).extractLsb' 16 8 = 0xFF) ∧
      (∀ k, s.ekey = some k → k ≤ 128 → ((statusWord s).extractLsb' 16 8).toNat = k) ∧
      (statusWord s).extractLsb' 24 8 = 0) ∧
    (∀ s rest, s.host = .readReg 1 :: rest → step s = .next { s with host := rest, hostData := statusWord s }) ∧
    statusWord State.reset = 0x00FF0000

/-! ### Encoding -/

/-- A few words, written out from spec/30_encoding.md R90, R91, R100, R120 and spec/41_catalog.md R154. -/
def Obligations.KnownWords : Prop :=
  decodeCommand 0x12460001 = .ok (.setBit 70 1) ∧ decodeCommand 0x01000100 = .ok (.init 0 true) ∧
    decodeCommand 0x14270000 = .ok (.setFieldTxt 39) ∧ decodeCommand 0x04000001 = .ok (.setStrict 1) ∧
    decodeMicro .dval 0x8A000006 = .ok (.dvalAsciiN 0x8A000006) ∧
    decodeMicro .bfmt 0x82000002 = .ok (.bfmtFixedTA 0x82000002) ∧
    decodeMicro .bpfx 0x8B200013 = .ok (.bpfxAsciiLlvar 0x8B200013)

/-- For every well-formed instruction, decoding its word in its format gives it back, with every operand. -/
def Obligations.EncodingRoundTrip : Prop :=
  ∀ i : Instr, i.WellFormed = true → decodeAs i.format (encode i) = .ok i

/-- What a stage decodes from a descriptor is a well-formed micro-operation of that stage, whose word is the whole
descriptor. -/
def Obligations.DecodedMicroOpIsItsRow : Prop :=
  ∀ st d i, decodeMicro st d = .ok i → i.format = .d st ∧ i.WellFormed = true ∧ encode i = d

/-- spec/30_encoding.md R105: a legal descriptor (R104) matches exactly one row of each stage, except that a FIXED
descriptor matches no D.bpfx row; `Instr.WellFormed` holds the masks and match words of the rows. -/
def Obligations.LegalDescriptorSelectsOneRow : Prop :=
  ∀ d, descV d = true → checkWord d = none →
    (∀ st, st ≠ .bpfx ∨ descLdisc d ≠ 0 →
      ∃ i : Instr, (i.format = .d st ∧ i.WellFormed = true ∧ encode i = d) ∧
        ∀ j : Instr, j.format = .d st → j.WellFormed = true → encode j = d → j = i) ∧
    (descLdisc d = 0 → ∀ j : Instr, j.format = .d .bpfx → j.WellFormed = true → encode j ≠ d)

/-- spec/30_encoding.md R92, R96: `op` alone selects the command, the operands come from `key` and `arg` (R91), every
bit that a command does not read is ignored, and every other `op` is rejected with RJ_BAD_OPCODE, changing nothing but
STATUS, ERRINFO, RESLEN and RESVAL (and the latches of the model). -/
def Obligations.OpcodeMap : Prop :=
  (∀ w, (cmdOp w = 0x01 → decodeCommand w = .ok (.init (w.extractLsb' 0 2) (w.getLsbD 8))) ∧
      (cmdOp w = 0x02 → decodeCommand w = .ok .decode) ∧ (cmdOp w = 0x03 → decodeCommand w = .ok .build) ∧
      (cmdOp w = 0x04 → decodeCommand w = .ok (.setStrict (w.extractLsb' 0 16))) ∧
      (cmdOp w = 0x05 → decodeCommand w = .ok .getStrict) ∧ (cmdOp w = 0x10 → decodeCommand w = .ok .setMti) ∧
      (cmdOp w = 0x11 → decodeCommand w = .ok .getMti) ∧
      (cmdOp w = 0x12 → decodeCommand w = .ok (.setBit (w.extractLsb' 16 8) (w.extractLsb' 0 16))) ∧
      (cmdOp w = 0x13 → decodeCommand w = .ok (.getBit (w.extractLsb' 16 8))) ∧
      (cmdOp w = 0x14 → decodeCommand w = .ok (.setFieldTxt (w.extractLsb' 16 8))) ∧
      (cmdOp w = 0x15 → decodeCommand w = .ok (.setFieldInt (w.extractLsb' 16 8))) ∧
      (cmdOp w = 0x16 → decodeCommand w = .ok (.getField (w.extractLsb' 16 8))) ∧
      (cmdOp w = 0x20 → decodeCommand w = .ok (.getDenc (w.extractLsb' 16 8))) ∧
      (cmdOp w = 0x21 → decodeCommand w = .ok (.getLdisc (w.extractLsb' 16 8))) ∧
      (cmdOp w = 0x22 → decodeCommand w = .ok (.getClass (w.extractLsb' 16 8))) ∧
      (cmdOp w = 0x23 → decodeCommand w = .ok (.getLenc (w.extractLsb' 16 8))) ∧
      (cmdOp w = 0x24 → decodeCommand w = .ok (.getMaxlen (w.extractLsb' 16 8))) ∧
      (cmdOp w = 0x25 → decodeCommand w = .ok (.getDesc (w.extractLsb' 16 8))) ∧
      (cmdOp w = 0x30 → decodeCommand w = .ok .bcdDecode) ∧ (cmdOp w = 0x31 → decodeCommand w = .ok .bcdEncode) ∧
      (cmdOp w = 0x32 → decodeCommand w = .ok .bcdToInt) ∧ (cmdOp w = 0x33 → decodeCommand w = .ok .intToBcd) ∧
      (cmdOp w = 0x34 → decodeCommand w = .ok .hexEncode) ∧ (cmdOp w = 0x35 → decodeCommand w = .ok .hexDecode)) ∧
    ∀ s w rest, s.busy = false → s.host = .writeReg 0 w :: rest →
      w.extractLsb' 24 8 ∉ [0x01#8, 0x02, 0x03, 0x04, 0x05, 0x10, 0x11, 0x12, 0x13, 0x14, 0x15, 0x16, 0x20, 0x21, 0x22,
        0x23, 0x24, 0x25, 0x30, 0x31, 0x32, 0x33, 0x34, 0x35] →
      step s = .next { s.errEnd .reject .rjBadOpcode none with host := rest, errinfo := 0 }

/-! ### The command frame and the codec surface -/

/-- spec/46_accessors.md R300, checks 2 to 4 in their order: unbound, then key range, then bit value. Each ends the
command with nothing else changed (BUILD also sets TXLEN to 0, R340). That CURSOR keeps its value over an unbound BUILD
is the model's choice (log 12). -/
def Obligations.FrameRefusals : Prop :=
  ∀ s key arg,
    (s.bound = false → ∀ i ∈ [Instr.decode, .setStrict arg, .getStrict, .setMti, .getMti, .setBit key arg,
        .getBit key, .setFieldTxt key, .setFieldInt key, .getField key, .getDenc key, .getLdisc key, .getClass key,
        .getLenc key, .getMaxlen key, .getDesc key],
      exec i s = .next { s.errEnd .specError .seUnbound none with errinfo := 0 }) ∧
    (s.bound = false →
      exec .build s = .next { s.errEnd .specError .seUnbound none with errinfo := 0, txlen := 0 }) ∧
    (s.bound = true → key.toNat = 0 ∨ 128 < key.toNat → ∀ i ∈ [Instr.setBit key arg, .getBit key],
      exec i s = .next { s.errEnd .reject .rjKeyRange none with errinfo := 0 }) ∧
    (s.bound = true → key.toNat < 2 ∨ 128 < key.toNat → ∀ i ∈ [Instr.setFieldTxt key, .setFieldInt key, .getField key],
      exec i s = .next { s.errEnd .reject .rjKeyRange none with errinfo := 0 }) ∧
    (s.bound = true → 128 < key.toNat →
      ∀ i ∈ [Instr.getDenc key, .getLdisc key, .getClass key, .getLenc key, .getMaxlen key, .getDesc key],
      exec i s = .next { s.errEnd .reject .rjKeyRange none with errinfo := 0 }) ∧
    (s.bound = true → 1 < arg.toNat → exec (.setStrict arg) s =
      .next { s.errEnd .reject .rjBitValue none with errinfo := 0 }) ∧
    (s.bound = true → 1 ≤ key.toNat → key.toNat ≤ 128 → 1 < arg.toNat → exec (.setBit key arg) s =
      .next { s.errEnd .reject .rjBitValue none with errinfo := 0 })

/-- spec/46_accessors.md R301: on a catalog that passes the check, INIT empties the message, stores its operands and
binds; the buffers, RXLEN, OPLEN, TXLEN and CURSOR are unchanged. That MTI[0..3] are unchanged too, while MTI_VALID is 0,
is the model's choice (log 5). -/
def Obligations.InitBinds : Prop :=
  ∀ s cat strict, cat ≠ 3 → catCheck s.catrom cat = none →
    exec (.init cat strict) s =
      .next { s.okEnd with
        mtiValid := false, pres := 0, vals := [], strict := strict, catsel := cat, bound := true }

/-- spec/46_accessors.md R301: catalog number 3, and a catalog that fails the check, leave the message empty and the
framer unbound, with STRICT and CATSEL holding the operands. That MTI[0..3] are unchanged, while MTI_VALID is 0, is the
model's choice (log 5). -/
def Obligations.InitFails : Prop :=
  ∀ s strict,
    exec (.init 3 strict) s =
        .next { s.errEnd .specError .seNoCatalog none with
          errinfo := 0, mtiValid := false, pres := 0, vals := [], strict := strict, catsel := 3, bound := false } ∧
    ∀ cat cause k, cat ≠ 3 → catCheck s.catrom cat = some (cause, k) →
      exec (.init cat strict) s =
        .next { s.errEnd .specError cause (some k) with
          errinfo := 0, mtiValid := false, pres := 0, vals := [], strict := strict, catsel := cat, bound := false }

/-- spec/41_catalog.md R160: the check reports the least key with an entry that fails, and the first of its checks 0
to 4 that fails; it passes when there is none; INIT runs it before it binds a catalog. -/
def Obligations.CatalogCheck : Prop :=
  (∀ rom c cause k, catCheck rom c = some (cause, k) ↔
      k ≤ 128 ∧ descV (catRomWord rom c k) = true ∧ checkWord (catRomWord rom c k) = some cause ∧
        ∀ j, j < k → descV (catRomWord rom c j) = true → checkWord (catRomWord rom c j) = none) ∧
    (∀ rom c, catCheck rom c = none ↔
      ∀ k, k ≤ 128 → descV (catRomWord rom c k) = true → checkWord (catRomWord rom c k) = none) ∧
    (∀ s c strict, c ≠ 3 → ∃ t, exec (.init c strict) s = .next t ∧ t.catsel = c ∧
      (t.bound = true ↔ catCheck s.catrom c = none)) ∧
    ∀ d, checkWord d =
      if descDenc d = 0 then some .seChkDenc
      else if descLdisc d ≠ 0 ∧ descLenc d = 0 then some .seChkLenc
      else if 9 ≤ (descCls d).toNat then some .seChkClass
      else if (descCls d).toNat ∈ [0, 2, 3, 4, 5, 6] ∧ descDenc d ≠ 1 then some .seChkAscii
      else if (descCls d).toNat = 7 ∧ descDenc d = 2 then some .seChkBinBcd
      else none

/-- spec/46_accessors.md R302. -/
def Obligations.SetStrict : Prop :=
  (∀ w, w.extractLsb' 24 8 = 0x04#8 → decodeCommand w = .ok (.setStrict (w.extractLsb' 0 16))) ∧
    ∀ s arg, s.bound = true →
      (arg.toNat ≤ 1 → EndsAs (exec (.setStrict arg) s) { s.okEnd with strict := decide (arg.toNat = 1) }) ∧
      (1 < arg.toNat →
        EndsAs (exec (.setStrict arg) s) { s.errEnd .reject .rjBitValue none with errinfo := 0 })

/-- spec/46_accessors.md R303 in the frame of R300, which clears ERRINFO and RESLEN; that "Writes nothing else" of R303
adds to the frame and does not take from it is the model's reading (log 19). -/
def Obligations.GetStrict : Prop :=
  (∀ w, w.extractLsb' 24 8 = 0x05#8 → decodeCommand w = .ok .getStrict) ∧
    ∀ s, s.bound = true → EndsAs (exec .getStrict s) { s.okEnd with resval := if s.strict then 1 else 0 }

/-- spec/43_mti.md R208, spec/46_accessors.md R304: an operand of one to four digits that is legal when padded with
zeros on the left is stored. -/
def Obligations.SetMtiAccepts : Prop :=
  ∀ s, s.bound = true → 1 ≤ s.oplen → s.oplen ≤ 4 → isNum s.operand = true →
    mtiCheck (padL s.operand 0x30 4) s.strict = none →
    ∃ m, mtiBytes m = padL s.operand 0x30 4 ∧ exec .setMti s = .next { s.okEnd with mti := m, mtiValid := true }

/-- spec/43_mti.md R208: the three rejections of the set path, each with the candidate text in ERRINFO; MTI and
MTI_VALID are unchanged. Character `i` of the text stands in ERRINFO[31-8i : 24-8i], and a shorter text is filled with
zero bytes (spec/10_state.md R39). -/
def Obligations.SetMtiRejects : Prop :=
  (∀ t : Bytes, ∀ i, i < 4 → (packText t).extractLsb' (24 - 8 * i) 8 = t.getD i 0) ∧
  ∀ s, s.bound = true →
    (s.oplen = 0 ∨ 4 < s.oplen → exec .setMti s =
      .next { s.errEnd .reject .rjMtiLen (some 0) with errinfo := packText (s.operand.take 4) }) ∧
    (1 ≤ s.oplen → s.oplen ≤ 4 → isNum s.operand = false → exec .setMti s =
      .next { s.errEnd .reject .mtiNonnum (some 0) with errinfo := packText (padL s.operand 0x30 4) }) ∧
    ∀ c, 1 ≤ s.oplen → s.oplen ≤ 4 → isNum s.operand = true →
      mtiCheck (padL s.operand 0x30 4) s.strict = some c → exec .setMti s =
        .next { s.errEnd .reject c (some 0) with errinfo := packText (padL s.operand 0x30 4) }

/-- spec/43_mti.md R202, R204, R206: exactly the four-digit texts with every digit in its enumeration pass, and STRICT
does not change which; the cause for any other text is that of the first check of R204 that fails. The legal version
digits 0, 1 and 2 are the spec's from general knowledge (log 15). -/
def Obligations.MtiEnumeration : Prop :=
  (∀ t strict, mtiCheck t strict = none ↔
    ∃ d0 d1 d2 d3, d0 ∈ [0, 1, 2, 8, 9] ∧ 1 ≤ d1 ∧ d1 ≤ 9 ∧ d2 ≤ 7 ∧ d3 ≤ 5 ∧
      t = [BitVec.ofNat 8 (48 + d0), BitVec.ofNat 8 (48 + d1), BitVec.ofNat 8 (48 + d2), BitVec.ofNat 8 (48 + d3)]) ∧
    (∀ (t : Bytes) strict, (t.length ≠ 4 ∨ ∃ c ∈ t, c.toNat < 48 ∨ 57 < c.toNat) →
      mtiCheck t strict = some .mtiNonnum) ∧
    ∀ d0 d1 d2 d3 strict, d0 ≤ 9 → d1 ≤ 9 → d2 ≤ 9 → d3 ≤ 9 →
      mtiCheck [BitVec.ofNat 8 (48 + d0), BitVec.ofNat 8 (48 + d1), BitVec.ofNat 8 (48 + d2),
          BitVec.ofNat 8 (48 + d3)] strict =
        if strict = true ∧ d1 = 0 then some .mtiStrictClass
        else if strict = true ∧ 5 < d3 then some .mtiStrictOrigin
        else if d0 ∉ [0, 1, 2, 8, 9] then some .mtiVersion
        else if d1 = 0 then some .mtiClass
        else if 7 < d2 then some .mtiFunction
        else if 5 < d3 then some .mtiOrigin
        else none

/-- spec/46_accessors.md R305, spec/43_mti.md R211: a valid MTI in RESBUF and its four digits packed in RESVAL; an
unset one reads as an empty result. -/
def Obligations.GetMti : Prop :=
  ∀ s, s.bound = true →
    (s.mtiValid = true → 4 ≤ s.params.bufCap → isNum (mtiBytes s.mti) = true →
      ∃ rv, Answers s (exec .getMti s) (mtiBytes s.mti) rv ∧
        rv.toNat = digitVal s.mti.d0 * 4096 + digitVal s.mti.d1 * 256 + digitVal s.mti.d2 * 16 + digitVal s.mti.d3) ∧
    (s.mtiValid = false → exec .getMti s = .next s.okEnd)

/-- spec/46_accessors.md R306. -/
def Obligations.SetBit : Prop :=
  (∀ w, w.extractLsb' 24 8 = 0x12#8 → decodeCommand w = .ok (.setBit (w.extractLsb' 16 8) (w.extractLsb' 0 16))) ∧
    ∀ s key arg, s.bound = true →
      (1 ≤ key.toNat → key.toNat ≤ 128 → arg.toNat ≤ 1 →
        ∃ p, EndsAs (exec (.setBit key arg) s) { s.okEnd with pres := p } ∧
          presBit p key.toNat = decide (arg.toNat = 1) ∧ ∀ j, j ≠ key.toNat → presBit p j = presBit s.pres j) ∧
      (key.toNat = 0 ∨ 128 < key.toNat →
        EndsAs (exec (.setBit key arg) s) { s.errEnd .reject .rjKeyRange none with errinfo := 0 }) ∧
      (1 ≤ key.toNat → key.toNat ≤ 128 → 1 < arg.toNat →
        EndsAs (exec (.setBit key arg) s) { s.errEnd .reject .rjBitValue none with errinfo := 0 })

/-- spec/46_accessors.md R307. -/
def Obligations.GetBit : Prop :=
  (∀ w, w.extractLsb' 24 8 = 0x13#8 → decodeCommand w = .ok (.getBit (w.extractLsb' 16 8))) ∧
    ∀ s key, s.bound = true →
      (1 ≤ key.toNat → key.toNat ≤ 128 →
        EndsAs (exec (.getBit key) s) { s.okEnd with resval := if presBit s.pres key.toNat then 1 else 0 }) ∧
      (key.toNat = 0 ∨ 128 < key.toNat →
        EndsAs (exec (.getBit key) s) { s.errEnd .reject .rjKeyRange none with errinfo := 0 })

/-- spec/46_accessors.md R308, R309, R311: a value that is not too long goes into its slot and sets its presence bit;
no other slot and no other bit changes. SET_FIELD_TXT stores the operand, SET_FIELD_INT the number it spells. -/
def Obligations.SetFieldAccepts : Prop :=
  ∀ s key, s.bound = true → 2 ≤ key.toNat → key.toNat ≤ 128 → descV (s.catWord key.toNat) = true →
    ∀ i v, (i = .setFieldTxt key ∧ v = Value.text s.operand) ∨
        (i = .setFieldInt key ∧ ∃ n, decToNat s.operand = some n ∧ v = .int n) →
      (s.params.setLenMeasure = .contentUnits →
        (if descEnc (s.catWord key.toNat) = some .bin then (str v).length / 2 else (str v).length)
          ≤ descEffmax (s.catWord key.toNat)) →
      (s.params.setLenMeasure = .textChars → (str v).length ≤ descMax (s.catWord key.toNat)) →
      ∃ t, exec i s = .next t ∧ t = { s.okEnd with vals := t.vals, pres := t.pres } ∧
        t.val key.toNat = v ∧ (∀ g, g ≠ key.toNat → t.val g = s.val g) ∧
        presBit t.pres key.toNat = true ∧ ∀ g, g ≠ key.toNat → presBit t.pres g = presBit s.pres g

/-- spec/46_accessors.md R309, R311: SET_FIELD_INT refuses an operand that is not numeric before the lookup; a field
without an entry raises SE_NO_ENTRY; a value longer than the maximum is rejected. The slot and the bit are unchanged. -/
def Obligations.SetFieldRefuses : Prop :=
  ∀ s key, s.bound = true → 2 ≤ key.toNat → key.toNat ≤ 128 →
    (decToNat s.operand = none →
      exec (.setFieldInt key) s = .next { s.errEnd .reject .rjOperand (some key.toNat) with errinfo := 0 }) ∧
    ∀ i v, (i = .setFieldTxt key ∧ v = Value.text s.operand) ∨
        (i = .setFieldInt key ∧ ∃ n, decToNat s.operand = some n ∧ v = .int n) →
      (descV (s.catWord key.toNat) = false →
        exec i s = .next { s.errEnd .specError .seNoEntry (some key.toNat) with errinfo := 0 }) ∧
      (descV (s.catWord key.toNat) = true →
        (s.params.setLenMeasure = .contentUnits ∧ descEffmax (s.catWord key.toNat) <
            (if descEnc (s.catWord key.toNat) = some .bin then (str v).length / 2 else (str v).length)) ∨
          (s.params.setLenMeasure = .textChars ∧ descMax (s.catWord key.toNat) < (str v).length) →
        exec i s = .next { s.errEnd .reject .rjValueTooLong (some key.toNat) with errinfo := 0 })

/-- spec/46_accessors.md R310: the three kinds of value, told apart by RESVAL[1:0], with the presence bit in
RESVAL[8]; a text that does not fit RESBUF is refused (R69); so is a key outside 2..128. -/
def Obligations.GetField : Prop :=
  (∀ w, w.extractLsb' 24 8 = 0x16#8 → decodeCommand w = .ok (.getField (w.extractLsb' 16 8))) ∧
    ∀ s key, s.bound = true →
      (2 ≤ key.toNat → key.toNat ≤ 128 →
        (s.val key.toNat = .absent →
          EndsAs (exec (.getField key) s) { s.okEnd with resval := if presBit s.pres key.toNat then 0x100 else 0 }) ∧
        (∀ n, s.val key.toNat = .int n → (natToDec n).length ≤ s.params.bufCap →
          Answers s (exec (.getField key) s) (natToDec n) (if presBit s.pres key.toNat then 0x101 else 0x001)) ∧
        (∀ v, s.val key.toNat = .text v → v.length ≤ s.params.bufCap →
          Answers s (exec (.getField key) s) v (if presBit s.pres key.toNat then 0x102 else 0x002)) ∧
        (s.params.bufCap < (str (s.val key.toNat)).length →
          EndsAs (exec (.getField key) s) { s.errEnd .reject .rjOperand none with errinfo := 0 })) ∧
      (key.toNat < 2 ∨ 128 < key.toNat →
        EndsAs (exec (.getField key) s) { s.errEnd .reject .rjKeyRange none with errinfo := 0 })

/-- A text that SET_FIELD_TXT has stored comes back from GET_FIELD, byte for byte, with the presence bit set
(spec/46_accessors.md R308, R310, R311). -/
def Obligations.SetThenGetField : Prop :=
  ∀ s t key, s.oplen ≤ s.params.bufCap → exec (.setFieldTxt key) s = .next t → t.kind = .ok →
    Answers t (exec (.getField key) t) s.operand 0x102

/-- spec/41_catalog.md R170 to R175: the six introspection commands answer the fields of the key's descriptor (as R101
to R103 code them) and its description; a key without an entry raises SE_NO_ENTRY, a description that does not fit
RESBUF is refused (R69). The descriptor is legal (R104), as every one of a bound catalog is. ERRINFO is 0 by the frame
(spec/46_accessors.md R300), which the list of R170 leaves out (log 19). -/
def Obligations.Introspection : Prop :=
  ∀ s key, s.bound = true → key.toNat ≤ 128 →
    (descV (s.catWord key.toNat) = true → checkWord (s.catWord key.toNat) = none →
      exec (.getDenc key) s = .next { s.okEnd with resval := (descDenc (s.catWord key.toNat)).zeroExtend 32 } ∧
      exec (.getLdisc key) s = .next { s.okEnd with resval := (descLdisc (s.catWord key.toNat)).zeroExtend 32 } ∧
      exec (.getClass key) s = .next { s.okEnd with resval := (descCls (s.catWord key.toNat)).zeroExtend 32 } ∧
      exec (.getLenc key) s = .next { s.okEnd with resval := (descLenc (s.catWord key.toNat)).zeroExtend 32 } ∧
      exec (.getMaxlen key) s = .next { s.okEnd with resval := (descMaxlen (s.catWord key.toNat)).zeroExtend 32 } ∧
      ((catRomEntry s.catrom s.catsel key.toNat).desc.length ≤ s.params.bufCap →
        Answers s (exec (.getDesc key) s) (catRomEntry s.catrom s.catsel key.toNat).desc 0) ∧
      (s.params.bufCap < (catRomEntry s.catrom s.catsel key.toNat).desc.length →
        exec (.getDesc key) s = .next { s.errEnd .reject .rjOperand none with errinfo := 0 })) ∧
    (descV (s.catWord key.toNat) = false →
      ∀ i ∈ [Instr.getDenc key, .getLdisc key, .getClass key, .getLenc key, .getMaxlen key, .getDesc key],
        exec i s = .next { s.errEnd .specError .seNoEntry (some key.toNat) with errinfo := 0 })

/-! ### Primitive codecs -/

/-- spec/40_primitive_codecs.md R140 to R145: what the six commands answer, bound or not, when their operand converts
and the result fits RESBUF. ERRINFO is 0 by the frame (spec/46_accessors.md R300), which the list of R140 leaves out
(log 19). -/
def Obligations.CodecsAnswer : Prop :=
  ∀ s,
    (2 * s.oplen ≤ s.params.bufCap → Answers s (exec .bcdDecode s) (bcdDecode s.operand) 0) ∧
    (2 * s.oplen ≤ s.params.bufCap → Answers s (exec .hexEncode s) (hexEncode s.operand) 0) ∧
    (∀ v, bcdEncode s.operand = some v → v.length ≤ s.params.bufCap → Answers s (exec .bcdEncode s) v 0) ∧
    (∀ v, hexDecode s.operand = some v → v.length ≤ s.params.bufCap → Answers s (exec .hexDecode s) v 0) ∧
    (∀ n, bcdToInt s.operand = some n → (natToDec n).length ≤ s.params.bufCap → n < 2 ^ 32 →
      Answers s (exec .bcdToInt s) (natToDec n) (BitVec.ofNat 32 n)) ∧
    (∀ n, bcdToInt s.operand = some n → (natToDec n).length ≤ s.params.bufCap → 2 ^ 32 ≤ n →
      Answers s (exec .bcdToInt s) (natToDec n) 0xFFFFFFFF) ∧
    ∀ n v, decToNat s.operand = some n → bcdEncode (natToDec n) = some v → v.length ≤ s.params.bufCap →
      Answers s (exec .intToBcd s) v 0

/-- spec/40_primitive_codecs.md R140 to R145: an operand that does not convert, or a result that does not fit RESBUF,
ends with RJ_OPERAND (spec/60_exceptions.md R340) and changes nothing else. ERRINFO is 0 by the frame
(spec/46_accessors.md R300), which the list of R140 leaves out (log 19). -/
def Obligations.CodecsReject : Prop :=
  ∀ s i,
    (i = .bcdDecode ∧ s.params.bufCap < 2 * s.oplen) ∨ (i = .hexEncode ∧ s.params.bufCap < 2 * s.oplen) ∨
      (i = .bcdEncode ∧ ∀ v, bcdEncode s.operand = some v → s.params.bufCap < v.length) ∨
      (i = .hexDecode ∧ ∀ v, hexDecode s.operand = some v → s.params.bufCap < v.length) ∨
      (i = .bcdToInt ∧ ∀ n, bcdToInt s.operand = some n → s.params.bufCap < (natToDec n).length) ∨
      (i = .intToBcd ∧ ∀ n v, decToNat s.operand = some n → bcdEncode (natToDec n) = some v →
        s.params.bufCap < v.length) →
    exec i s = .next { s.errEnd .reject .rjOperand none with errinfo := 0 }

/-- The laws that spec/40_primitive_codecs.md derives from R130 to R135, and what R9 says of decimal text. -/
def Obligations.CodecLaws : Prop :=
  (∀ bs, hexDecode (hexEncode bs) = some bs) ∧ (∀ bs, bcdEncode (bcdDecode bs) = some bs) ∧
    (∀ t bs, hexDecode t = some bs → hexEncode bs = upperHex t) ∧
    (∀ t bs, bcdEncode t = some bs → bcdDecode bs = upperHex (evenText t) ∧ bs.length = ceil2 t.length) ∧
    (∀ t, (hexDecode t).isSome ↔ t.length % 2 = 0 ∧ ∀ c ∈ t, (nibval c).isSome) ∧
    (∀ n, bcdEncode (natToDec n) = some (intToBcd n)) ∧ (∀ n, bcdToInt (intToBcd n) = some n) ∧
    (∀ bs n, bcdToInt bs = some n →
      ∃ k, k < bs.length ∧ bs = List.replicate k 0 ++ intToBcd n) ∧
    (∀ n, isNum (natToDec n) = true ∧ decToNat (natToDec n) = some n) ∧
    (∀ t n, decToNat t = some n → (natToDec n).length ≤ t.length) ∧
    ∀ t, decToNat t = none ↔ t = [] ∨ ∃ c ∈ t, isDigit c = false

/-- spec/60_exceptions.md R349: a failed setter leaves MTI, MTI_VALID, PRES, VAL and STRICT as they were; a failed
getter or primitive codec command writes only STATUS, RESLEN and RESVAL; both leave every buffer alone. ERRINFO is
what the frame and the MTI rules leave (R300, R208; log 19). -/
def Obligations.FailuresKeepMessage : Prop :=
  ∀ s t key arg, ∀ i ∈ [Instr.setStrict arg, .getStrict, .setMti, .getMti, .setBit key arg, .getBit key,
      .setFieldTxt key, .setFieldInt key, .getField key, .getDenc key, .getLdisc key, .getClass key, .getLenc key,
      .getMaxlen key, .getDesc key, .bcdDecode, .bcdEncode, .bcdToInt, .intToBcd, .hexEncode, .hexDecode],
    exec i s = .next t → t.kind ≠ .ok →
      t = { s.errEnd t.kind t.cause t.ekey with errinfo := t.errinfo } ∧ (i ≠ .setMti → t.errinfo = 0)

/-! ### Bitmap engine -/

/-- spec/42_bitmap.md R180, spec/30_encoding.md R112: field `i` of a word is its bit `64 - i`, and byte `j` of the eight
bytes is bits `63 - 8j` to `56 - 8j`, read back as they were written. -/
def Obligations.BitmapBits : Prop :=
  (∀ p i, 1 ≤ i → i ≤ 64 →
      (primaryWord p).getLsbD (64 - i) = presBit p i ∧ (secondaryWord p).getLsbD (64 - i) = presBit p (64 + i)) ∧
    (∀ w1 w2 i, 1 ≤ i → i ≤ 64 →
      presBit (presOfWords w1 w2) i = w1.getLsbD (64 - i) ∧
        presBit (presOfWords w1 w2) (64 + i) = w2.getLsbD (64 - i)) ∧
    (∀ w j, j < 8 → (bytesOfWord w)[j]? = some (w.extractLsb' (56 - 8 * j) 8)) ∧
    ∀ w, (bytesOfWord w).length = 8 ∧ wordOfBytes (bytesOfWord w) = w

/-- What `bitmapEncode` emits, `bitmapDecode` reads back as the same presence map, to the last byte: the symmetry that
spec/42_bitmap.md derives from R182 and R188. -/
def Obligations.BitmapSymmetry : Prop :=
  ∀ s t u n, bitmapEncode s = .val () t → t.txlen = s.txlen + n →
    u.catrom = s.catrom → u.catsel = s.catsel → u.cursor + n ≤ u.rxlen →
    memReadRange u.rxbuf u.cursor n = memReadRange t.txbuf s.txlen n →
    bitmapDecode u = .val () { u with pres := t.pres, cursor := u.cursor + n }

/-! ### Field micro-operations, decode path -/

/-- spec/44_decode.md R224, with what follows every length stage (R228, R229): the length of a FIXED field is its
maximum, doubled for class b under ASCII (spec/00_scope.md R13); no byte is read and the cursor stays; a length of 0
ends the field as Absent. -/
def Obligations.DlenFixed : Prop :=
  (∀ d, descV d = true → descLdisc d = 0 → decodeMicro .dlen d = .ok (.dlenFixed d)) ∧
    (∀ d, descEffmax d =
      if descDenc d = 1 ∧ descCls d = 7 then 2 * (descMaxlen d).toNat else (descMaxlen d).toNat) ∧
    ∀ s d,
      (descEffmax d ≠ 0 → exec (.dlenFixed d) s = .next { s with len := descEffmax d, stage := some .dval }) ∧
      (descEffmax d = 0 → ∃ t, exec (.dlenFixed d) s = .next t ∧ FieldStored s t 0 .absent)

/-- spec/44_decode.md R225, R228, R229: 1, 2 or 3 decimal characters; up to the effective maximum; a length of 0 ends
the field as Absent. -/
def Obligations.DlenAscii : Prop :=
  ∀ s d n, ∀ x ∈ [(Instr.dlenAsciiLvar d, 1), (.dlenAsciiLlvar d, 2), (.dlenAsciiLllvar d, 3)],
    s.cursor + x.2 ≤ s.rxlen → decToNat (memReadRange s.rxbuf s.cursor x.2) = some n → n ≤ descEffmax d →
    (n ≠ 0 → exec x.1 s = .next { s with cursor := s.cursor + x.2, len := n, stage := some .dval }) ∧
    (n = 0 → ∃ t, exec x.1 s = .next t ∧ FieldStored s t x.2 .absent)

/-- spec/44_decode.md R226, R228, R229: 1, 1 or 2 bytes, each nibble a digit. -/
def Obligations.DlenBcd : Prop :=
  ∀ s d n, ∀ x ∈ [(Instr.dlenBcdLvar d, 1), (.dlenBcdLlvar d, 1), (.dlenBcdLllvar d, 2)],
    s.cursor + x.2 ≤ s.rxlen → decToNat (bcdDecode (memReadRange s.rxbuf s.cursor x.2)) = some n →
    n ≤ descEffmax d →
    (n ≠ 0 → exec x.1 s = .next { s with cursor := s.cursor + x.2, len := n, stage := some .dval }) ∧
    (n = 0 → ∃ t, exec x.1 s = .next t ∧ FieldStored s t x.2 .absent)

/-- spec/44_decode.md R227, R228, R229: 1, 2 or 3 bytes, big-endian, under BIN_LEN_MODE = be_bytes. -/
def Obligations.DlenBin : Prop :=
  ∀ s d n, ∀ x ∈ [(Instr.dlenBinLvar d, 1), (.dlenBinLlvar d, 2), (.dlenBinLllvar d, 3)],
    s.params.binLenMode = .beBytes → s.cursor + x.2 ≤ s.rxlen →
    beNat (memReadRange s.rxbuf s.cursor x.2) = n → n ≤ descEffmax d →
    (n ≠ 0 → exec x.1 s = .next { s with cursor := s.cursor + x.2, len := n, stage := some .dval }) ∧
    (n = 0 → ∃ t, exec x.1 s = .next t ∧ FieldStored s t x.2 .absent)

/-- spec/44_decode.md R225 to R228, spec/20_memory.md R66: how a length prefix ends a DECODE. An underrun leaves the
cursor; a prefix that is not numeric and a length above the maximum leave it behind the prefix. That the mode `refuse`
raises before a byte is read is the model's choice (log 21). -/
def Obligations.DlenRefuses : Prop :=
  ∀ s d, s.running = .decode →
    (∀ x ∈ [(Instr.dlenBinLvar d, 1), (.dlenBinLlvar d, 2), (.dlenBinLllvar d, 3)],
      (s.params.binLenMode = .refuse → exec x.1 s = .next (s.errEnd .specError .seHdrEnc (some s.fidx))) ∧
      (s.params.binLenMode = .beBytes → s.rxlen < s.cursor + x.2 →
        exec x.1 s = .next (s.errEnd .parseError .peUnderrun (some s.fidx))) ∧
      (s.params.binLenMode = .beBytes → s.cursor + x.2 ≤ s.rxlen →
        descEffmax d < beNat (memReadRange s.rxbuf s.cursor x.2) →
        exec x.1 s = .next { s.errEnd .parseError .peLenTooLarge (some s.fidx) with cursor := s.cursor + x.2 })) ∧
    ∀ x ∈ [(Instr.dlenAsciiLvar d, 1, memReadRange s.rxbuf s.cursor 1),
        (.dlenAsciiLlvar d, 2, memReadRange s.rxbuf s.cursor 2),
        (.dlenAsciiLllvar d, 3, memReadRange s.rxbuf s.cursor 3),
        (.dlenBcdLvar d, 1, bcdDecode (memReadRange s.rxbuf s.cursor 1)),
        (.dlenBcdLlvar d, 1, bcdDecode (memReadRange s.rxbuf s.cursor 1)),
        (.dlenBcdLllvar d, 2, bcdDecode (memReadRange s.rxbuf s.cursor 2))],
      (s.rxlen < s.cursor + x.2.1 → exec x.1 s = .next (s.errEnd .parseError .peUnderrun (some s.fidx))) ∧
      (s.cursor + x.2.1 ≤ s.rxlen → isNum x.2.2 = false → exec x.1 s =
        .next { s.errEnd .parseError .peLenNonnum (some s.fidx) with cursor := s.cursor + x.2.1 }) ∧
      (∀ n, s.cursor + x.2.1 ≤ s.rxlen → decToNat x.2.2 = some n → descEffmax d < n → exec x.1 s =
        .next { s.errEnd .parseError .peLenTooLarge (some s.fidx) with cursor := s.cursor + x.2.1 })

/-- spec/44_decode.md R234, R236: numeric content under ASCII and under BCD gives a number. -/
def Obligations.DvalNumber : Prop :=
  ∀ s d n,
    (s.cursor + s.len ≤ s.rxlen → decToNat (memReadRange s.rxbuf s.cursor s.len) = some n →
      ∃ t, exec (.dvalAsciiN d) s = .next t ∧ FieldStored s t s.len (.int n)) ∧
    (s.cursor + (s.len + 1) / 2 ≤ s.rxlen →
      decToNat (bcdDecode (memReadRange s.rxbuf s.cursor ((s.len + 1) / 2))) = some n →
      ∃ t, exec (.dvalBcdN d) s = .next t ∧ FieldStored s t ((s.len + 1) / 2) (.int n))

/-- spec/44_decode.md R235: other content under ASCII, of each class but n, is taken as it stands; an underrun is the
only way it ends a DECODE (R66). -/
def Obligations.DvalText : Prop :=
  (∀ d, descV d = true → descDenc d = 1 → descCls d ≠ 1 → (descCls d).toNat ≤ 8 →
      ∃ i ∈ [Instr.dvalAsciiTA d, .dvalAsciiTS d, .dvalAsciiTAn d, .dvalAsciiTAs d, .dvalAsciiTNs d,
        .dvalAsciiTAns d, .dvalAsciiTB d, .dvalAsciiTZ d], decodeMicro .dval d = .ok i) ∧
    ∀ s d, ∀ i ∈ [Instr.dvalAsciiTA d, .dvalAsciiTS d, .dvalAsciiTAn d, .dvalAsciiTAs d, .dvalAsciiTNs d,
        .dvalAsciiTAns d, .dvalAsciiTB d, .dvalAsciiTZ d],
      (s.cursor + s.len ≤ s.rxlen →
        ∃ t, exec i s = .next t ∧ FieldStored s t s.len (.text (memReadRange s.rxbuf s.cursor s.len))) ∧
      (s.running = .decode → s.rxlen < s.cursor + s.len →
        exec i s = .next (s.errEnd .parseError .peUnderrun (some s.fidx)))

/-- spec/44_decode.md R237, R238: track 2 under BCD, and any content under BIN, is upper-case hexadecimal text; for
track 2 every `D` becomes `=` and one trailing `F` goes. -/
def Obligations.DvalHexText : Prop :=
  ∀ s d,
    (s.cursor + (s.len + 1) / 2 ≤ s.rxlen → ∃ t u, exec (.dvalBcdZ d) s = .next t ∧
      u = (hexEncode (memReadRange s.rxbuf s.cursor ((s.len + 1) / 2))).map (fun c => if c = 0x44#8 then 0x3D else c) ∧
      (u.getLast? = some 0x46#8 → FieldStored s t ((s.len + 1) / 2) (.text u.dropLast)) ∧
      (u.getLast? ≠ some 0x46#8 → FieldStored s t ((s.len + 1) / 2) (.text u))) ∧
    ∀ i ∈ [Instr.dvalBinN d, .dvalBinB d, .dvalBinZ d], s.cursor + s.len ≤ s.rxlen →
      ∃ t, exec i s = .next t ∧ FieldStored s t s.len (.text (hexEncode (memReadRange s.rxbuf s.cursor s.len)))

/-- spec/44_decode.md R234 to R238, spec/20_memory.md R66: how a value ends a DECODE. -/
def Obligations.DvalRefuses : Prop :=
  ∀ s d, s.running = .decode →
    (∀ x ∈ [(Instr.dvalAsciiN d, s.len), (.dvalAsciiTA d, s.len), (.dvalAsciiTS d, s.len), (.dvalAsciiTAn d, s.len),
        (.dvalAsciiTAs d, s.len), (.dvalAsciiTNs d, s.len), (.dvalAsciiTAns d, s.len), (.dvalAsciiTB d, s.len),
        (.dvalAsciiTZ d, s.len), (.dvalBcdN d, (s.len + 1) / 2), (.dvalBcdZ d, (s.len + 1) / 2),
        (.dvalBinN d, s.len), (.dvalBinB d, s.len), (.dvalBinZ d, s.len)],
      s.rxlen < s.cursor + x.2 → exec x.1 s = .next (s.errEnd .parseError .peUnderrun (some s.fidx))) ∧
    (s.cursor + s.len ≤ s.rxlen → isNum (memReadRange s.rxbuf s.cursor s.len) = false →
      exec (.dvalAsciiN d) s =
        .next { s.errEnd .parseError .peValue (some s.fidx) with cursor := s.cursor + s.len }) ∧
    (s.cursor + (s.len + 1) / 2 ≤ s.rxlen →
      isNum (bcdDecode (memReadRange s.rxbuf s.cursor ((s.len + 1) / 2))) = false →
      exec (.dvalBcdN d) s =
        .next { s.errEnd .parseError .peValue (some s.fidx) with cursor := s.cursor + (s.len + 1) / 2 })

/-! ### Field micro-operations, build path -/

/-- spec/45_build.md R264 to R267: a FIXED value is padded with zeros (class n) or spaces (text classes) to the
maximum, or left as it is (b and z), and must then be exactly as wide as the field. -/
def Obligations.BfmtFixed : Prop :=
  ∀ s d, s.val s.fidx ≠ .absent →
    ∀ x ∈ [(Instr.bfmtFixedN d, padL (str (s.val s.fidx)) 0x30 (descMax d)),
      (.bfmtFixedTA d, padL (str (s.val s.fidx)) 0x20 (descMax d)),
      (.bfmtFixedTS d, padL (str (s.val s.fidx)) 0x20 (descMax d)),
      (.bfmtFixedTAn d, padL (str (s.val s.fidx)) 0x20 (descMax d)),
      (.bfmtFixedTAs d, padL (str (s.val s.fidx)) 0x20 (descMax d)),
      (.bfmtFixedTNs d, padL (str (s.val s.fidx)) 0x20 (descMax d)),
      (.bfmtFixedTAns d, padL (str (s.val s.fidx)) 0x20 (descMax d)),
      (.bfmtFixedPB d, str (s.val s.fidx)), (.bfmtFixedPZ d, str (s.val s.fidx))],
    (if descEnc d = some .bin then x.2.length = 2 * descEffmax d else x.2.length = descEffmax d) →
    exec x.1 s = .next { s with txt := x.2, len := descEffmax d, stage := some .bemit }

/-- spec/45_build.md R267, R272, R273: a variable value as its text, at most as long as the maximum; track 2 under BCD
gets `D` for `=` and an even length first. An Absent value is the empty text. -/
def Obligations.BfmtVar : Prop :=
  ∀ s d t n, ∀ i ∈ [Instr.bfmtVarLvar d, .bfmtVarLlvar d, .bfmtVarLllvar d],
    (¬(descClass d = some .clsZ ∧ descEnc d = some .bcd) → t = str (s.val s.fidx)) →
    (descClass d = some .clsZ → descEnc d = some .bcd →
      t = (str (s.val s.fidx)).map (fun c => if c = 0x3D#8 then 0x44 else c) ++
        (if (str (s.val s.fidx)).length % 2 = 1 then [0x46] else [])) →
    (if descEnc d = some .bin then t.length = 2 * n else t.length = n) → n ≤ descEffmax d →
    exec i s = .next { s with txt := t, len := n, stage := some .bpfx }

/-- spec/45_build.md R264 to R267, R273: how the format stage ends a BUILD. -/
def Obligations.BfmtRefuses : Prop :=
  ∀ s d, s.running = .build →
    (∀ x ∈ [(Instr.bfmtFixedN d, padL (str (s.val s.fidx)) 0x30 (descMax d)),
        (.bfmtFixedTA d, padL (str (s.val s.fidx)) 0x20 (descMax d)),
        (.bfmtFixedTS d, padL (str (s.val s.fidx)) 0x20 (descMax d)),
        (.bfmtFixedTAn d, padL (str (s.val s.fidx)) 0x20 (descMax d)),
        (.bfmtFixedTAs d, padL (str (s.val s.fidx)) 0x20 (descMax d)),
        (.bfmtFixedTNs d, padL (str (s.val s.fidx)) 0x20 (descMax d)),
        (.bfmtFixedTAns d, padL (str (s.val s.fidx)) 0x20 (descMax d)),
        (.bfmtFixedPB d, str (s.val s.fidx)), (.bfmtFixedPZ d, str (s.val s.fidx))],
      (s.val s.fidx = .absent →
        exec x.1 s = .next { s.errEnd .buildError .beNoValue (some s.fidx) with txlen := 0 }) ∧
      (s.val s.fidx ≠ .absent → descEnc d = some .bin → x.2.length % 2 = 1 →
        exec x.1 s = .next { s.errEnd .buildError .beValueEnc (some s.fidx) with txlen := 0 }) ∧
      (s.val s.fidx ≠ .absent → descEnc d = some .bin → x.2.length % 2 = 0 → x.2.length ≠ 2 * descEffmax d →
        exec x.1 s = .next { s.errEnd .buildError .beFixedLen (some s.fidx) with txlen := 0 }) ∧
      (s.val s.fidx ≠ .absent → descEnc d ≠ some .bin → x.2.length ≠ descEffmax d →
        exec x.1 s = .next { s.errEnd .buildError .beFixedLen (some s.fidx) with txlen := 0 })) ∧
    ∀ i ∈ [Instr.bfmtVarLvar d, .bfmtVarLlvar d, .bfmtVarLllvar d],
      (descEnc d = some .bin → (varText d (s.val s.fidx)).length % 2 = 1 →
        exec i s = .next { s.errEnd .buildError .beValueEnc (some s.fidx) with txlen := 0 }) ∧
      (descEnc d = some .bin → (varText d (s.val s.fidx)).length % 2 = 0 →
        2 * descEffmax d < (varText d (s.val s.fidx)).length →
        exec i s = .next { s.errEnd .buildError .beTooLong (some s.fidx) with txlen := 0 }) ∧
      (descEnc d ≠ some .bin → descEffmax d < (varText d (s.val s.fidx)).length →
        exec i s = .next { s.errEnd .buildError .beTooLong (some s.fidx) with txlen := 0 })

/-- spec/45_build.md R274 to R276: the length prefix is emitted in its encoding at its width, and the emit stage
follows; every byte of TXBUF outside it is unchanged. -/
def Obligations.Bpfx : Prop :=
  ∀ s d,
    (∀ x ∈ [(Instr.bpfxAsciiLvar d, 1), (.bpfxAsciiLlvar d, 2), (.bpfxAsciiLllvar d, 3)],
      s.len < 10 ^ x.2 → s.txlen + x.2 ≤ s.params.bufCap →
      ∃ t, exec x.1 s = .next t ∧ t = { s with txbuf := t.txbuf, txlen := s.txlen + x.2, stage := some .bemit } ∧
        Emitted s t (padL (natToDec s.len) 0x30 x.2)) ∧
    (∀ x ∈ [(Instr.bpfxBcdLvar d, 1), (.bpfxBcdLlvar d, 2), (.bpfxBcdLllvar d, 3)],
      s.len < 10 ^ x.2 → s.txlen + (x.2 + 1) / 2 ≤ s.params.bufCap →
      ∃ t v, exec x.1 s = .next t ∧
        t = { s with txbuf := t.txbuf, txlen := s.txlen + (x.2 + 1) / 2, stage := some .bemit } ∧
        bcdEncode (padL (natToDec s.len) 0x30 x.2) = some v ∧ Emitted s t v) ∧
    ∀ x ∈ [(Instr.bpfxBinLvar d, 1), (.bpfxBinLlvar d, 2), (.bpfxBinLllvar d, 3)],
      s.params.binLenMode = .beBytes → s.len < 256 ^ x.2 → s.txlen + x.2 ≤ s.params.bufCap →
      ∃ t v, exec x.1 s = .next t ∧ t = { s with txbuf := t.txbuf, txlen := s.txlen + x.2, stage := some .bemit } ∧
        v.length = x.2 ∧ beNat v = s.len ∧ Emitted s t v

/-- spec/45_build.md R280 to R282: the value bytes are emitted and the sequencer goes on after the field; every byte of
TXBUF outside them is unchanged. -/
def Obligations.Bemit : Prop :=
  ∀ s d v i,
    (i = .bemitAscii d ∧ v = s.txt) ∨ (i = .bemitBcd d ∧ bcdEncode s.txt = some v) ∨
      (i = .bemitBin d ∧ hexDecode s.txt = some v) →
    s.txlen + v.length ≤ s.params.bufCap →
    ∃ t, exec i s = .next t ∧
      t = { s with txbuf := t.txbuf, txlen := t.txlen, phase := t.phase, fidx := t.fidx, stage := none } ∧
      Emitted s t v ∧ GoesOn s s.fidx t

/-- spec/45_build.md R274 to R276, R281, R282, spec/20_memory.md R68: how the prefix and the emit stage end a BUILD;
BE_TX_OVF names no key. That the mode `refuse` raises first is the model's choice (log 21). -/
def Obligations.EmitRefuses : Prop :=
  ∀ s d, s.running = .build →
    (∀ x ∈ [(Instr.bpfxAsciiLvar d, 1), (.bpfxAsciiLlvar d, 2), (.bpfxAsciiLllvar d, 3), (.bpfxBcdLvar d, 1),
        (.bpfxBcdLlvar d, 2), (.bpfxBcdLllvar d, 3)],
      10 ^ x.2 ≤ s.len →
      exec x.1 s = .next { s.errEnd .buildError .bePrefixOvf (some s.fidx) with txlen := 0 }) ∧
    (∀ x ∈ [(Instr.bpfxBinLvar d, 1), (.bpfxBinLlvar d, 2), (.bpfxBinLllvar d, 3)],
      (s.params.binLenMode = .refuse →
        exec x.1 s = .next { s.errEnd .specError .seHdrEnc (some s.fidx) with txlen := 0 }) ∧
      (s.params.binLenMode = .beBytes → 256 ^ x.2 ≤ s.len →
        exec x.1 s = .next { s.errEnd .buildError .bePrefixOvf (some s.fidx) with txlen := 0 }) ∧
      (s.params.binLenMode = .beBytes → s.len < 256 ^ x.2 → s.params.bufCap < s.txlen + x.2 →
        exec x.1 s = .next { s.errEnd .buildError .beTxOvf none with txlen := 0 })) ∧
    (∀ x ∈ [(Instr.bpfxAsciiLvar d, 1, 1), (.bpfxAsciiLlvar d, 2, 2), (.bpfxAsciiLllvar d, 3, 3),
        (.bpfxBcdLvar d, 1, 1), (.bpfxBcdLlvar d, 2, 1), (.bpfxBcdLllvar d, 3, 2)],
      s.len < 10 ^ x.2.1 → s.params.bufCap < s.txlen + x.2.2 →
      exec x.1 s = .next { s.errEnd .buildError .beTxOvf none with txlen := 0 }) ∧
    (bcdEncode s.txt = none →
      exec (.bemitBcd d) s = .next { s.errEnd .buildError .beValueEnc (some s.fidx) with txlen := 0 }) ∧
    (hexDecode s.txt = none →
      exec (.bemitBin d) s = .next { s.errEnd .buildError .beValueEnc (some s.fidx) with txlen := 0 }) ∧
    ∀ i v, (i = .bemitAscii d ∧ v = s.txt) ∨ (i = .bemitBcd d ∧ bcdEncode s.txt = some v) ∨
        (i = .bemitBin d ∧ hexDecode s.txt = some v) →
      s.params.bufCap < s.txlen + v.length →
      exec i s = .next { s.errEnd .buildError .beTxOvf none with txlen := 0 }

/-- spec/45_build.md R272, spec/44_decode.md R237: the translations of track 2 are inverse: digits and `=` come back
as they were. -/
def Obligations.TrackTwoRoundTrip : Prop :=
  ∀ t : Bytes, (∀ c ∈ t, isDigit c = true ∨ c = 0x3D) →
    ∃ bs, bcdEncode (trackEncode t) = some bs ∧ trackDecode (hexEncode bs) = t

/-! ### Whole commands -/

/-- DECODE of bytes that hold a message (`State.parse`, the path of spec/44_decode.md R220 to R238 as a function on
byte strings): it ends normally with that message stored, CURSOR and RESVAL the number of bytes the message occupied,
and nothing else changed. FIDX after the command is the model's (log 6). -/
def Obligations.DecodeCompletes : Prop :=
  ∀ s m rest, s.bound = true → s.parse = some (m, rest) →
    exec .decode s =
      .next { s.okEnd with
        mti := m.mti, mtiValid := true, pres := m.pres, vals := m.vals, cursor := s.rxlen - rest.length
        fidx := (presentFields m.pres).getLastD s.fidx, resval := BitVec.ofNat 32 (s.rxlen - rest.length) }

/-- spec/60_exceptions.md R348: what a DECODE that fails leaves in the message, by the phase in which it fails, and
that nothing but the message, CURSOR, FIDX, ERRINFO, STATUS and the results has changed. The kind, the cause, the key,
ERRINFO and CURSOR of a failed MTI or BITMAP phase (`mtiFailure`, `wordFailure`: spec/43_mti.md R201, R207,
spec/42_bitmap.md R181, spec/41_catalog.md R150, R164, spec/20_memory.md R66, spec/10_state.md R32, R39); those of a
failed field are stated stage by stage (StepReadsDescriptor, DlenRefuses, DvalText, DvalRefuses). That FIDX still names
the failed field after the command is the model's choice (log 6). -/
def Obligations.DecodeFails : Prop :=
  ∀ s, s.bound = true → s.parse = none →
    ∃ t, exec .decode s = .next t ∧ (t.kind = .parseError ∨ t.kind = .specError) ∧
      t = { s.errEnd t.kind t.cause t.ekey with
        mti := t.mti, mtiValid := t.mtiValid, pres := t.pres, vals := t.vals, cursor := t.cursor, fidx := t.fidx
        errinfo := t.errinfo } ∧
      (parseMti (s.catWord 0) s.strict s.received = none →
        t.mtiValid = false ∧ t.pres = 0 ∧ t.vals = [] ∧
          ∃ e, mtiFailure (s.catWord 0) s.strict s.received = some e ∧ e.ReportedIn 0 0 t) ∧
      ∀ a, parseMti (s.catWord 0) s.strict s.received = some a →
        t.mtiValid = true ∧ mtiBytes t.mti = a.1 ∧ t.errinfo = 0 ∧
        (parseWord (s.catWord 1) a.2 = none → t.pres = 0 ∧ t.vals = [] ∧
          ∃ e, wordFailure (s.catWord 1) a.2 = some e ∧ e.ReportedIn 1 (s.rxlen - a.2.length) t) ∧
        (∀ w, parseWord (s.catWord 1) a.2 = some w → parseBitmap (s.catWord 1) a.2 = none →
          t.pres = presOfWords w.1 0 ∧ t.vals = [] ∧
            ∃ e, wordFailure (s.catWord 1) w.2 = some e ∧ e.ReportedIn 1 (s.rxlen - w.2.length) t) ∧
        ∀ b fs f gs c, parseBitmap (s.catWord 1) a.2 = some b → presentFields b.1 = fs ++ f :: gs →
          parseFields s.params.binLenMode s.catWord fs b.2 = some c →
          parseField s.params.binLenMode (s.catWord f) c.2 = none →
          t.pres = b.1 ∧ t.vals = c.1 ∧ t.fidx = f ∧ t.ekey = some f

/-- BUILD of a state that has a wire message (`State.wire`, the path of spec/45_build.md R260 to R282 as a function on
byte strings) that fits TXBUF: it ends normally with those bytes in TXBUF from 0, TXLEN and RESVAL their number,
PRES[1] forced when a field above 64 is present, CURSOR 0, and nothing else changed. In every other state it ends
with SPEC_ERROR or BUILD_ERROR, TXLEN and CURSOR 0, and the MTI, VAL and PRES but PRES[1] as they were
(spec/60_exceptions.md R347), PRES[1] forced when the MTI phase did not fail (spec/42_bitmap.md R186). The kind, the cause,
the key and ERRINFO of a failed MTI or BITMAP phase (`buildMtiFailure`, `buildWordFailure`: spec/43_mti.md R210,
spec/42_bitmap.md R187, R188, spec/41_catalog.md R150, R164, spec/20_memory.md R68); those of a failed field are stated
stage by stage (StepReadsDescriptor, BfmtRefuses, EmitRefuses). FIDX after the command is the model's (log 6); ERRINFO with
BE_MTI_INVALID is read from R210 against R39 (log 18). -/
def Obligations.BuildOutcome : Prop :=
  ∀ s, s.bound = true →
    (∀ v, s.wire = some v → v.length ≤ s.params.bufCap →
      ∃ m, exec .build s =
          .next { s.okEnd with
            pres := activated s.pres, cursor := 0, txbuf := m, txlen := v.length
            fidx := (presentFields s.pres).getLastD s.fidx, resval := BitVec.ofNat 32 v.length } ∧
        Stored s.txbuf m 0 v) ∧
    ((∀ v, s.wire = some v → s.params.bufCap < v.length) →
      ∃ t, exec .build s = .next t ∧ (t.kind = .buildError ∨ t.kind = .specError) ∧
        (t.pres = s.pres ∨ t.pres = activated s.pres) ∧
        t = { s.errEnd t.kind t.cause t.ekey with
          pres := t.pres, cursor := 0, txbuf := t.txbuf, txlen := 0, fidx := t.fidx, errinfo := t.errinfo } ∧
        (buildMti (s.catWord 0) s.strict s.mtiValid s.mti = none →
          t.pres = s.pres ∧
            ∃ e, buildMtiFailure (s.catWord 0) s.strict s.mtiValid s.mti = some e ∧ e.ReportedIn 0 0 t) ∧
        ∀ a, buildMti (s.catWord 0) s.strict s.mtiValid s.mti = some a →
          t.errinfo = 0 ∧
          (s.params.bufCap < a.length →
            t.pres = s.pres ∧ t.kind = .buildError ∧ t.cause = .beTxOvf ∧ t.ekey = none) ∧
          (a.length ≤ s.params.bufCap →
            t.pres = activated s.pres ∧
            (buildBitmap (s.catWord 1) (activated s.pres) = none →
              ∃ e, buildWordFailure (s.catWord 1) = some e ∧ e.ReportedIn 1 0 t) ∧
            ∀ b, buildBitmap (s.catWord 1) (activated s.pres) = some b → s.params.bufCap < a.length + b.length →
              t.kind = .buildError ∧ t.cause = .beTxOvf ∧ t.ekey = none))

/-- What DECODE gives for what BUILD emitted, which spec/45_build.md derives from R223 to R238 and R263 to R282: the
MTI and the presence map come back, every byte is consumed, and every present field comes back as the table says
(`readBack`), unless a numeric field holds a text that is not numeric; then DECODE raises PE_VALUE at the first such
field. -/
def Obligations.BuildThenDecode : Prop :=
  ∀ s t, catCheck s.catrom s.catsel = none → s.bound = true → exec .build s = .next t → t.kind = .ok →
    ∃ u, exec .decode { t with rxbuf := t.txbuf, rxlen := t.txlen } = .next u ∧
      u.mtiValid = true ∧ u.mti = s.mti ∧ u.pres = activated s.pres ∧
      ∃ x : Nat → Bytes, (∀ f ∈ presentFields s.pres, fieldText (s.catWord f) (s.val f) = some (x f)) ∧
        ((∀ f ∈ presentFields s.pres, ∃ v, readBack (s.catWord f) (x f) = some v) →
          u.kind = .ok ∧ u.cursor = t.txlen ∧ ∀ f,
            (f ∈ presentFields s.pres → readBack (s.catWord f) (x f) = some (u.val f)) ∧
            (f ∉ presentFields s.pres → u.val f = .absent)) ∧
        ∀ f ∈ presentFields s.pres, readBack (s.catWord f) (x f) = none →
          (∀ g ∈ presentFields s.pres, g < f → readBack (s.catWord g) (x g) ≠ none) →
          u.kind = .parseError ∧ u.cause = .peValue ∧ u.ekey = some f

/-- The end state of a DECODE depends only on the bound catalog, STRICT, the bytes received and the parameters: two
framers that agree on them end with the same message, cursor, outcome and results, whatever else they hold
(spec/44_decode.md R221 and the big-step form derived there, spec/10_state.md R33). -/
def Obligations.DecodeDependsOnlyOnInput : Prop :=
  ∀ s s' t t', s.bound = true → s'.bound = true → s.catsel = s'.catsel → s.catrom = s'.catrom →
    s.strict = s'.strict → s.params = s'.params → s.rxlen = s'.rxlen → s.received = s'.received →
    exec .decode s = .next t → exec .decode s' = .next t' →
    t.kind = t'.kind ∧ t.cause = t'.cause ∧ t.ekey = t'.ekey ∧ t.mtiValid = t'.mtiValid ∧
      (t.mtiValid = true → t.mti = t'.mti) ∧ t.pres = t'.pres ∧ t.vals = t'.vals ∧ t.cursor = t'.cursor ∧
      t.errinfo = t'.errinfo ∧ t.reslen = t'.reslen ∧ t.resval = t'.resval

/-- A command of the sequencer is what its steps do one after another: from its START phase, with a host that does
nothing, at most 512 steps of the framer reach the state that `exec` gives at once (spec/20_memory.md R77; the choice
to run a command at once is log 7). -/
def Obligations.SequencerAgrees : Prop :=
  ∀ s, s.bound = true → s.host = [] →
    (∃ n, n ≤ 512 ∧ runSteps n { s.begin .decode with phase := .start } = exec .decode s) ∧
      ∃ n, n ≤ 512 ∧ runSteps n { s.begin .build with phase := .start } = exec .build s

/-- spec/70_reset_and_hazards.md R405, spec/60_exceptions.md R340: no instruction stops the machine, and every command
ends: BUSY falls and the sequencer is idle, from every state. -/
def Obligations.EveryCommandEnds : Prop :=
  (∀ i s, ∃ t, exec i s = .next t) ∧
    ∀ i s t, i.format = .c → exec i s = .next t → t.busy = false ∧ t.phase = .idle

end Slice0Obligations
end

