-- ==== Sys2Proof/Laws/CatRom.lean ====
section
/-! SUPPORT. What the constraints on the parameter CATROM say (spec/41_catalog.md R155, R156), so that no proof unfolds
them. -/

namespace Sys2Proof.Machine

/-- R155: for every key, the entries of the three catalogs are equal but for CLS, DENC and LENC. -/
theorem pinnedShape_iff (rom : CatRom) : pinnedShape rom = true ↔
    ∀ k, k ≤ 128 → entryShape (catRomEntry rom 0 k) = entryShape (catRomEntry rom 1 k) ∧
      entryShape (catRomEntry rom 0 k) = entryShape (catRomEntry rom 2 k) := by
  simp [pinnedShape, nKey, Nat.lt_succ_iff]

/-- R156: some data field of maximum 999 has class `b` in catalog 1 and another class in catalog 0. -/
theorem pinnedReclassified_iff (rom : CatRom) : pinnedReclassified rom = true ↔
    ∃ k, 2 ≤ k ∧ k ≤ 128 ∧ descV (catRomWord rom 1 k) = true ∧ descMaxlen (catRomWord rom 1 k) = 999 ∧
      descCls (catRomWord rom 1 k) = 7 ∧ descCls (catRomWord rom 0 k) ≠ 7 := by
  simp only [pinnedReclassified, List.any_eq_true, List.mem_range'_1, Bool.and_eq_true, beq_iff_eq, bne_iff_ne]
  constructor
  · rintro ⟨k, hk, ⟨⟨hv, hm⟩, h1⟩, h0⟩
    exact ⟨k, hk.1, by omega, hv, hm, h1, h0⟩
  · rintro ⟨k, h2, h128, hv, hm, h1, h0⟩
    exact ⟨k, ⟨h2, by omega⟩, ⟨⟨hv, hm⟩, h1⟩, h0⟩

/-- Two entries of one shape agree in all that GET_LDISC, GET_MAXLEN and GET_DESC answer. -/
theorem entryShape_inj {d e : CatEntry} (h : entryShape d = entryShape e) :
    descV d.word = descV e.word ∧ descLdisc d.word = descLdisc e.word ∧ descReserved d.word = descReserved e.word ∧
      descMaxlen d.word = descMaxlen e.word ∧ d.desc = e.desc := by
  simpa [entryShape] using h

end Sys2Proof.Machine
end

