-- ==== Sys2Proof/Laws/Codecs.lean ====
section
/-! SUPPORT. Digits, decimal text and packed digits: what the pure functions of Machine/Codecs.lean do to the texts that
the two paths give them. -/

namespace Sys2Proof.Machine

/-! ### Characters -/

theorem isDigit_iff (c : Byte) : isDigit c = true ↔ 48 ≤ c.toNat ∧ c.toNat ≤ 57 := by simp [isDigit, BitVec.le_def]

/-- A nibble's character has the nibble as its value. -/
theorem nibval_hexDigit (n : BitVec 4) : nibval (hexDigit n) = some n := by
  revert n
  decide

/-- A digit's nibble, and its character again. -/
theorem nibval_digit : ∀ c : Byte, isDigit c = true →
    nibval c = some (c.extractLsb' 0 4) ∧ hexDigit (c.extractLsb' 0 4) = c := by decide +kernel

/-- The two nibbles of a byte put together again. -/
theorem append_extract : ∀ b : Byte, (b.extractLsb' 4 4 ++ b.extractLsb' 0 4 : BitVec 8) = b := by decide +kernel

/-- The nibbles of a byte made of two. -/
theorem extract_append (x y : BitVec 4) :
    (x ++ y : BitVec 8).extractLsb' 4 4 = x ∧ (x ++ y : BitVec 8).extractLsb' 0 4 = y := by
  revert x y
  decide +kernel

/-- A character of a nibble is a digit exactly when the nibble is at most 9. -/
theorem isDigit_hexDigit : ∀ n : BitVec 4, isDigit (hexDigit n) = decide (n.toNat < 10) := by decide

theorem digitVal_ofNat (k : Nat) (h : k < 10) :
    digitVal (BitVec.ofNat 8 (48 + k)) = k ∧ isDigit (BitVec.ofNat 8 (48 + k)) = true := by
  rw [isDigit_iff]
  unfold digitVal
  simp
  omega

/-! ### Decimal text -/

theorem isNum_iff (t : Bytes) : isNum t = true ↔ t ≠ [] ∧ t.all isDigit = true := by cases t <;> simp [isNum]

theorem decToNat_eq_some {t : Bytes} {n : Nat} : decToNat t = some n ↔ isNum t = true ∧ digitsVal t = n := by
  simp [decToNat]

theorem digitsVal_append (a b : Bytes) : digitsVal (a ++ b) = digitsVal a * 10 ^ b.length + digitsVal b := by
  induction b using List.reverseRecOn with
  | nil => simp [digitsVal]
  | append_singleton l c ih =>
    have snoc : ∀ x : Bytes, digitsVal (x ++ [c]) = digitsVal x * 10 + digitVal c := by
      intro x
      simp [digitsVal]
    rw [← List.append_assoc, snoc, ih, snoc, List.length_append, List.length_singleton, pow_succ]
    ring

theorem digitsVal_cons (c : Byte) (t : Bytes) : digitsVal (c :: t) = digitVal c * 10 ^ t.length + digitsVal t := by
  simpa [digitsVal] using digitsVal_append [c] t

/-- `w` digits spell a number below `10 ^ w`. -/
theorem digitsVal_lt (t : Bytes) (h : t.all isDigit = true) : digitsVal t < 10 ^ t.length := by
  induction t with
  | nil => simp [digitsVal]
  | cons c t ih =>
    simp only [List.all_cons, Bool.and_eq_true] at h
    rw [digitsVal_cons, List.length_cons, pow_succ]
    have h1 := (isDigit_iff c).1 h.1
    have h2 := ih h.2
    have : digitVal c ≤ 9 := by
      unfold digitVal
      omega
    nlinarith [Nat.mul_le_mul_right (10 ^ t.length) this]

theorem natToDecAux_spec : ∀ (fuel n : Nat) (acc : Bytes), n < fuel →
    ∃ t, natToDecAux fuel n acc = t ++ acc ∧ t.all isDigit = true ∧ digitsVal t = n ∧ t ≠ [] ∧
      (t.length = 1 ∨ 10 ^ (t.length - 1) ≤ n)
  | 0, n, acc, h => by omega
  | fuel + 1, n, acc, h => by
    unfold natToDecAux
    split
    · next hn =>
      refine ⟨[BitVec.ofNat 8 (48 + n)], rfl, ?_, ?_, by simp, .inl rfl⟩
      · simp [digitVal_ofNat n hn]
      · simpa [digitsVal] using (digitVal_ofNat n hn).1
    · next hn =>
      obtain ⟨t, h1, h2, h3, h4, h5⟩ :=
        natToDecAux_spec fuel (n / 10) (BitVec.ofNat 8 (48 + n % 10) :: acc) (by omega)
      have hm := digitVal_ofNat (n % 10) (by omega)
      refine ⟨t ++ [BitVec.ofNat 8 (48 + n % 10)], by simp [h1], by simp [h2, hm.2], ?_, by simp, .inr ?_⟩
      · rw [digitsVal_append, h3]
        simp [digitsVal, hm.1]
        omega
      · have hl : 1 ≤ t.length := by cases t <;> simp_all
        simp only [List.length_append, List.length_cons, List.length_nil, Nat.zero_add, Nat.add_sub_cancel]
        rcases h5 with h5 | h5
        · rw [h5]
          omega
        · calc 10 ^ t.length = 10 ^ (t.length - 1) * 10 := by
                rw [← pow_succ]
                congr 1
                omega
            _ ≤ (n / 10) * 10 := Nat.mul_le_mul_right _ h5
            _ ≤ n := Nat.div_mul_le_self n 10

/-- The decimal text of a number: digits that spell it, as few as can. -/
theorem natToDec_spec (n : Nat) : (natToDec n).all isDigit = true ∧ digitsVal (natToDec n) = n ∧ natToDec n ≠ [] ∧
    ((natToDec n).length = 1 ∨ 10 ^ ((natToDec n).length - 1) ≤ n) := by
  obtain ⟨t, h1, h2, h3, h4, h5⟩ := natToDecAux_spec (n + 1) n [] (by omega)
  have : natToDec n = t := by simpa [natToDec] using h1
  rw [this]
  exact ⟨h2, h3, h4, h5⟩

/-- The decimal text of a number below `10 ^ w` has at most `w` digits. -/
theorem natToDec_length_le (n w : Nat) (hw : 1 ≤ w) (h : n < 10 ^ w) : (natToDec n).length ≤ w := by
  rcases (natToDec_spec n).2.2.2 with h1 | h1
  · omega
  · have := lt_of_le_of_lt h1 h
    have := (Nat.pow_lt_pow_iff_right (by norm_num)).1 this
    omega

/-! ### The text of a length (R113) -/

theorem lengthText_length {w n : Nat} (hw : 1 ≤ w) (h : n < 10 ^ w) : (lengthText w n).length = w := by
  have := natToDec_length_le n w hw h
  simp [lengthText, padL]
  omega

theorem lengthText_digits (w n : Nat) : (lengthText w n).all isDigit = true := by
  have h := (natToDec_spec n).1
  simp [lengthText, padL] at h ⊢
  exact ⟨.inr (by decide), h⟩

theorem digitsVal_zeros (k : Nat) (t : Bytes) : digitsVal (List.replicate k 0x30 ++ t) = digitsVal t := by
  induction k with
  | zero => rfl
  | succ k ih => rw [List.replicate_succ, List.cons_append, digitsVal_cons, ih, show digitVal 0x30 = 0 from rfl,
      Nat.zero_mul, Nat.zero_add]

theorem digitsVal_lengthText (w n : Nat) : digitsVal (lengthText w n) = n := by
  unfold lengthText padL
  rw [digitsVal_zeros]
  exact (natToDec_spec n).2.1

/-! ### Packed digits -/

theorem hexEncode_length (bs : Bytes) : (hexEncode bs).length = 2 * bs.length := by
  induction bs with
  | nil => rfl
  | cons b t ih =>
    simp only [hexEncode, List.length_cons, ih]
    omega

theorem evenText_length (t : Bytes) : (evenText t).length = 2 * ceil2 t.length := by
  unfold evenText ceil2
  split
  · rw [List.length_cons]
    omega
  · omega

theorem evenText_digits (t : Bytes) (h : t.all isDigit = true) : (evenText t).all isDigit = true := by
  unfold evenText
  split
  · simp only [List.all_cons, h, Bool.and_true]
    decide
  · exact h

theorem digitsVal_evenText (t : Bytes) : digitsVal (evenText t) = digitsVal t := by
  unfold evenText
  split
  · rw [digitsVal_cons, show digitVal 0x30#8 = 0 from rfl, Nat.zero_mul, Nat.zero_add]
  · rfl

/-- An even number of digits packs, two a byte, and unpacks to the same digits. -/
theorem hexDecode_digits : ∀ t : Bytes, t.length % 2 = 0 → t.all isDigit = true →
    ∃ bs, hexDecode t = some bs ∧ hexEncode bs = t ∧ 2 * bs.length = t.length
  | [], _, _ => ⟨[], rfl, rfl, rfl⟩
  | [_], h, _ => by simp at h
  | a :: b :: rest, h, hd => by
    simp only [List.all_cons, Bool.and_eq_true] at hd
    simp only [List.length_cons] at h
    obtain ⟨bs, h1, h2, h3⟩ := hexDecode_digits rest (by omega) hd.2.2
    have ha := nibval_digit a hd.1
    have hb := nibval_digit b hd.2.1
    refine ⟨(a.extractLsb' 0 4 ++ b.extractLsb' 0 4 : BitVec 8) :: bs, ?_, ?_, ?_⟩
    · simp [hexDecode, ha.1, hb.1, h1]
    · have e := extract_append (a.extractLsb' 0 4) (b.extractLsb' 0 4)
      rw [hexEncode, e.1, e.2, ha.2, hb.2, h2]
    · simp only [List.length_cons]
      omega

/-- Any digits pack (R133), and unpack to themselves behind the padding digit. -/
theorem bcdEncode_digits (t : Bytes) (h : t.all isDigit = true) :
    ∃ bs, bcdEncode t = some bs ∧ bs.length = ceil2 t.length ∧ bcdDecode bs = evenText t := by
  have hl := evenText_length t
  obtain ⟨bs, h1, h2, h3⟩ := hexDecode_digits (evenText t) (by omega) (evenText_digits t h)
  exact ⟨bs, h1, by omega, h2⟩

/-! ### Big-endian numbers (R70) -/

theorem beBytes_length (w n : Nat) : (beBytes w n).length = w := by
  induction w with
  | zero => rfl
  | succ w ih => simp [beBytes, ih]

theorem beNat_cons (b : Byte) (t : Bytes) : beNat (b :: t) = b.toNat * 256 ^ t.length + beNat t := by
  have acc : ∀ (t : Bytes) (a : Nat), t.foldl (fun n b => n * 256 + b.toNat) a = a * 256 ^ t.length + beNat t := by
    intro t
    induction t with
    | nil =>
      intro a
      simp [beNat]
    | cons c t ih =>
      intro a
      have h2 : beNat (c :: t) = c.toNat * 256 ^ t.length + beNat t := by
        rw [← ih c.toNat]
        simp [beNat]
      rw [List.foldl_cons, ih, h2, List.length_cons]
      ring
  rw [← acc t b.toNat]
  simp [beNat]

/-- The low bytes of a number hold it, up to their width. -/
theorem beNat_beBytes (w n : Nat) : beNat (beBytes w n) = n % 256 ^ w := by
  induction w with
  | zero => simp [beBytes, beNat, Nat.mod_one]
  | succ w ih =>
    rw [beBytes, beNat_cons, ih, beBytes_length, BitVec.toNat_ofNat, show (2 : Nat) ^ 8 = 256 from rfl, pow_succ,
      Nat.mod_mul]
    ring

end Sys2Proof.Machine
end

