-- ==== Sys2Proof/Laws/State.lean ====
section
/-! SUPPORT. One lemma per field of State per named update of State: what the field holds after the update. -/

namespace Sys2Proof.Machine

variable (s : State)

/-! ### `begin` -/

@[simp] theorem State.begin_mti (r : Running) : (s.begin r).mti = s.mti := rfl
@[simp] theorem State.begin_mtiValid (r : Running) : (s.begin r).mtiValid = s.mtiValid := rfl
@[simp] theorem State.begin_pres (r : Running) : (s.begin r).pres = s.pres := rfl
@[simp] theorem State.begin_vals (r : Running) : (s.begin r).vals = s.vals := rfl
@[simp] theorem State.begin_strict (r : Running) : (s.begin r).strict = s.strict := rfl
@[simp] theorem State.begin_catsel (r : Running) : (s.begin r).catsel = s.catsel := rfl
@[simp] theorem State.begin_bound (r : Running) : (s.begin r).bound = s.bound := rfl
@[simp] theorem State.begin_phase (r : Running) : (s.begin r).phase = s.phase := rfl
@[simp] theorem State.begin_fidx (r : Running) : (s.begin r).fidx = s.fidx := rfl
@[simp] theorem State.begin_cursor (r : Running) : (s.begin r).cursor = s.cursor := rfl
@[simp] theorem State.begin_kind (r : Running) : (s.begin r).kind = s.kind := rfl
@[simp] theorem State.begin_busy (r : Running) : (s.begin r).busy = true := rfl
@[simp] theorem State.begin_cause (r : Running) : (s.begin r).cause = s.cause := rfl
@[simp] theorem State.begin_ekey (r : Running) : (s.begin r).ekey = s.ekey := rfl
@[simp] theorem State.begin_errinfo (r : Running) : (s.begin r).errinfo = 0 := rfl
@[simp] theorem State.begin_rxlen (r : Running) : (s.begin r).rxlen = s.rxlen := rfl
@[simp] theorem State.begin_txlen (r : Running) : (s.begin r).txlen = s.txlen := rfl
@[simp] theorem State.begin_oplen (r : Running) : (s.begin r).oplen = s.oplen := rfl
@[simp] theorem State.begin_reslen (r : Running) : (s.begin r).reslen = 0 := rfl
@[simp] theorem State.begin_resval (r : Running) : (s.begin r).resval = 0 := rfl
@[simp] theorem State.begin_rxbuf (r : Running) : (s.begin r).rxbuf = s.rxbuf := rfl
@[simp] theorem State.begin_txbuf (r : Running) : (s.begin r).txbuf = s.txbuf := rfl
@[simp] theorem State.begin_opbuf (r : Running) : (s.begin r).opbuf = s.opbuf := rfl
@[simp] theorem State.begin_resbuf (r : Running) : (s.begin r).resbuf = s.resbuf := rfl
@[simp] theorem State.begin_catrom (r : Running) : (s.begin r).catrom = s.catrom := rfl
@[simp] theorem State.begin_params (r : Running) : (s.begin r).params = s.params := rfl
@[simp] theorem State.begin_running (r : Running) : (s.begin r).running = r := rfl
@[simp] theorem State.begin_stage (r : Running) : (s.begin r).stage = s.stage := rfl
@[simp] theorem State.begin_desc (r : Running) : (s.begin r).desc = s.desc := rfl
@[simp] theorem State.begin_len (r : Running) : (s.begin r).len = s.len := rfl
@[simp] theorem State.begin_txt (r : Running) : (s.begin r).txt = s.txt := rfl
@[simp] theorem State.begin_host (r : Running) : (s.begin r).host = s.host := rfl
@[simp] theorem State.begin_hostData (r : Running) : (s.begin r).hostData = s.hostData := rfl
@[simp] theorem State.begin_freeCtr (r : Running) : (s.begin r).freeCtr = s.freeCtr := rfl

/-! ### `finish` -/

@[simp] theorem State.finish_mti : (s.finish).mti = s.mti := rfl
@[simp] theorem State.finish_mtiValid : (s.finish).mtiValid = s.mtiValid := rfl
@[simp] theorem State.finish_pres : (s.finish).pres = s.pres := rfl
@[simp] theorem State.finish_vals : (s.finish).vals = s.vals := rfl
@[simp] theorem State.finish_strict : (s.finish).strict = s.strict := rfl
@[simp] theorem State.finish_catsel : (s.finish).catsel = s.catsel := rfl
@[simp] theorem State.finish_bound : (s.finish).bound = s.bound := rfl
@[simp] theorem State.finish_phase : (s.finish).phase = .idle := rfl
@[simp] theorem State.finish_fidx : (s.finish).fidx = s.fidx := rfl
@[simp] theorem State.finish_cursor : (s.finish).cursor = s.cursor := rfl
@[simp] theorem State.finish_kind : (s.finish).kind = .ok := rfl
@[simp] theorem State.finish_busy : (s.finish).busy = false := rfl
@[simp] theorem State.finish_cause : (s.finish).cause = .none := rfl
@[simp] theorem State.finish_ekey : (s.finish).ekey = none := rfl
@[simp] theorem State.finish_errinfo : (s.finish).errinfo = s.errinfo := rfl
@[simp] theorem State.finish_rxlen : (s.finish).rxlen = s.rxlen := rfl
@[simp] theorem State.finish_txlen : (s.finish).txlen = s.txlen := rfl
@[simp] theorem State.finish_oplen : (s.finish).oplen = s.oplen := rfl
@[simp] theorem State.finish_reslen : (s.finish).reslen = s.reslen := rfl
@[simp] theorem State.finish_resval : (s.finish).resval = s.resval := rfl
@[simp] theorem State.finish_rxbuf : (s.finish).rxbuf = s.rxbuf := rfl
@[simp] theorem State.finish_txbuf : (s.finish).txbuf = s.txbuf := rfl
@[simp] theorem State.finish_opbuf : (s.finish).opbuf = s.opbuf := rfl
@[simp] theorem State.finish_resbuf : (s.finish).resbuf = s.resbuf := rfl
@[simp] theorem State.finish_catrom : (s.finish).catrom = s.catrom := rfl
@[simp] theorem State.finish_params : (s.finish).params = s.params := rfl
@[simp] theorem State.finish_running : (s.finish).running = .none := rfl
@[simp] theorem State.finish_stage : (s.finish).stage = none := rfl
@[simp] theorem State.finish_desc : (s.finish).desc = 0 := rfl
@[simp] theorem State.finish_len : (s.finish).len = 0 := rfl
@[simp] theorem State.finish_txt : (s.finish).txt = [] := rfl
@[simp] theorem State.finish_host : (s.finish).host = s.host := rfl
@[simp] theorem State.finish_hostData : (s.finish).hostData = s.hostData := rfl
@[simp] theorem State.finish_freeCtr : (s.finish).freeCtr = s.freeCtr := rfl

/-! ### `raise` -/

@[simp] theorem State.raise_mti (k : Kind) (c : Cause) (key : Option Nat) : (s.raise k c key).mti = s.mti := rfl
@[simp] theorem State.raise_mtiValid (k : Kind) (c : Cause) (key : Option Nat) : (s.raise k c key).mtiValid = s.mtiValid := rfl
@[simp] theorem State.raise_pres (k : Kind) (c : Cause) (key : Option Nat) : (s.raise k c key).pres = s.pres := rfl
@[simp] theorem State.raise_vals (k : Kind) (c : Cause) (key : Option Nat) : (s.raise k c key).vals = s.vals := rfl
@[simp] theorem State.raise_strict (k : Kind) (c : Cause) (key : Option Nat) : (s.raise k c key).strict = s.strict := rfl
@[simp] theorem State.raise_catsel (k : Kind) (c : Cause) (key : Option Nat) : (s.raise k c key).catsel = s.catsel := rfl
@[simp] theorem State.raise_bound (k : Kind) (c : Cause) (key : Option Nat) : (s.raise k c key).bound = s.bound := rfl
@[simp] theorem State.raise_phase (k : Kind) (c : Cause) (key : Option Nat) : (s.raise k c key).phase = .idle := rfl
@[simp] theorem State.raise_fidx (k : Kind) (c : Cause) (key : Option Nat) : (s.raise k c key).fidx = s.fidx := rfl
@[simp] theorem State.raise_cursor (k : Kind) (c : Cause) (key : Option Nat) : (s.raise k c key).cursor = s.cursor := rfl
@[simp] theorem State.raise_kind (k : Kind) (c : Cause) (key : Option Nat) : (s.raise k c key).kind = k := rfl
@[simp] theorem State.raise_busy (k : Kind) (c : Cause) (key : Option Nat) : (s.raise k c key).busy = false := rfl
@[simp] theorem State.raise_cause (k : Kind) (c : Cause) (key : Option Nat) : (s.raise k c key).cause = c := rfl
@[simp] theorem State.raise_ekey (k : Kind) (c : Cause) (key : Option Nat) : (s.raise k c key).ekey = key := rfl
@[simp] theorem State.raise_errinfo (k : Kind) (c : Cause) (key : Option Nat) : (s.raise k c key).errinfo = s.errinfo := rfl
@[simp] theorem State.raise_rxlen (k : Kind) (c : Cause) (key : Option Nat) : (s.raise k c key).rxlen = s.rxlen := rfl
@[simp] theorem State.raise_txlen (k : Kind) (c : Cause) (key : Option Nat) : (s.raise k c key).txlen = if s.running = .build then 0 else s.txlen := rfl
@[simp] theorem State.raise_oplen (k : Kind) (c : Cause) (key : Option Nat) : (s.raise k c key).oplen = s.oplen := rfl
@[simp] theorem State.raise_reslen (k : Kind) (c : Cause) (key : Option Nat) : (s.raise k c key).reslen = 0 := rfl
@[simp] theorem State.raise_resval (k : Kind) (c : Cause) (key : Option Nat) : (s.raise k c key).resval = 0 := rfl
@[simp] theorem State.raise_rxbuf (k : Kind) (c : Cause) (key : Option Nat) : (s.raise k c key).rxbuf = s.rxbuf := rfl
@[simp] theorem State.raise_txbuf (k : Kind) (c : Cause) (key : Option Nat) : (s.raise k c key).txbuf = s.txbuf := rfl
@[simp] theorem State.raise_opbuf (k : Kind) (c : Cause) (key : Option Nat) : (s.raise k c key).opbuf = s.opbuf := rfl
@[simp] theorem State.raise_resbuf (k : Kind) (c : Cause) (key : Option Nat) : (s.raise k c key).resbuf = s.resbuf := rfl
@[simp] theorem State.raise_catrom (k : Kind) (c : Cause) (key : Option Nat) : (s.raise k c key).catrom = s.catrom := rfl
@[simp] theorem State.raise_params (k : Kind) (c : Cause) (key : Option Nat) : (s.raise k c key).params = s.params := rfl
@[simp] theorem State.raise_running (k : Kind) (c : Cause) (key : Option Nat) : (s.raise k c key).running = .none := rfl
@[simp] theorem State.raise_stage (k : Kind) (c : Cause) (key : Option Nat) : (s.raise k c key).stage = none := rfl
@[simp] theorem State.raise_desc (k : Kind) (c : Cause) (key : Option Nat) : (s.raise k c key).desc = 0 := rfl
@[simp] theorem State.raise_len (k : Kind) (c : Cause) (key : Option Nat) : (s.raise k c key).len = 0 := rfl
@[simp] theorem State.raise_txt (k : Kind) (c : Cause) (key : Option Nat) : (s.raise k c key).txt = [] := rfl
@[simp] theorem State.raise_host (k : Kind) (c : Cause) (key : Option Nat) : (s.raise k c key).host = s.host := rfl
@[simp] theorem State.raise_hostData (k : Kind) (c : Cause) (key : Option Nat) : (s.raise k c key).hostData = s.hostData := rfl
@[simp] theorem State.raise_freeCtr (k : Kind) (c : Cause) (key : Option Nat) : (s.raise k c key).freeCtr = s.freeCtr := rfl

/-! ### `setVal` -/

@[simp] theorem State.setVal_mti (f : Nat) (v : Value) : (s.setVal f v).mti = s.mti := rfl
@[simp] theorem State.setVal_mtiValid (f : Nat) (v : Value) : (s.setVal f v).mtiValid = s.mtiValid := rfl
@[simp] theorem State.setVal_pres (f : Nat) (v : Value) : (s.setVal f v).pres = s.pres := rfl
@[simp] theorem State.setVal_vals (f : Nat) (v : Value) : (s.setVal f v).vals = sparseSet Value.absent s.vals f v := rfl
@[simp] theorem State.setVal_strict (f : Nat) (v : Value) : (s.setVal f v).strict = s.strict := rfl
@[simp] theorem State.setVal_catsel (f : Nat) (v : Value) : (s.setVal f v).catsel = s.catsel := rfl
@[simp] theorem State.setVal_bound (f : Nat) (v : Value) : (s.setVal f v).bound = s.bound := rfl
@[simp] theorem State.setVal_phase (f : Nat) (v : Value) : (s.setVal f v).phase = s.phase := rfl
@[simp] theorem State.setVal_fidx (f : Nat) (v : Value) : (s.setVal f v).fidx = s.fidx := rfl
@[simp] theorem State.setVal_cursor (f : Nat) (v : Value) : (s.setVal f v).cursor = s.cursor := rfl
@[simp] theorem State.setVal_kind (f : Nat) (v : Value) : (s.setVal f v).kind = s.kind := rfl
@[simp] theorem State.setVal_busy (f : Nat) (v : Value) : (s.setVal f v).busy = s.busy := rfl
@[simp] theorem State.setVal_cause (f : Nat) (v : Value) : (s.setVal f v).cause = s.cause := rfl
@[simp] theorem State.setVal_ekey (f : Nat) (v : Value) : (s.setVal f v).ekey = s.ekey := rfl
@[simp] theorem State.setVal_errinfo (f : Nat) (v : Value) : (s.setVal f v).errinfo = s.errinfo := rfl
@[simp] theorem State.setVal_rxlen (f : Nat) (v : Value) : (s.setVal f v).rxlen = s.rxlen := rfl
@[simp] theorem State.setVal_txlen (f : Nat) (v : Value) : (s.setVal f v).txlen = s.txlen := rfl
@[simp] theorem State.setVal_oplen (f : Nat) (v : Value) : (s.setVal f v).oplen = s.oplen := rfl
@[simp] theorem State.setVal_reslen (f : Nat) (v : Value) : (s.setVal f v).reslen = s.reslen := rfl
@[simp] theorem State.setVal_resval (f : Nat) (v : Value) : (s.setVal f v).resval = s.resval := rfl
@[simp] theorem State.setVal_rxbuf (f : Nat) (v : Value) : (s.setVal f v).rxbuf = s.rxbuf := rfl
@[simp] theorem State.setVal_txbuf (f : Nat) (v : Value) : (s.setVal f v).txbuf = s.txbuf := rfl
@[simp] theorem State.setVal_opbuf (f : Nat) (v : Value) : (s.setVal f v).opbuf = s.opbuf := rfl
@[simp] theorem State.setVal_resbuf (f : Nat) (v : Value) : (s.setVal f v).resbuf = s.resbuf := rfl
@[simp] theorem State.setVal_catrom (f : Nat) (v : Value) : (s.setVal f v).catrom = s.catrom := rfl
@[simp] theorem State.setVal_params (f : Nat) (v : Value) : (s.setVal f v).params = s.params := rfl
@[simp] theorem State.setVal_running (f : Nat) (v : Value) : (s.setVal f v).running = s.running := rfl
@[simp] theorem State.setVal_stage (f : Nat) (v : Value) : (s.setVal f v).stage = s.stage := rfl
@[simp] theorem State.setVal_desc (f : Nat) (v : Value) : (s.setVal f v).desc = s.desc := rfl
@[simp] theorem State.setVal_len (f : Nat) (v : Value) : (s.setVal f v).len = s.len := rfl
@[simp] theorem State.setVal_txt (f : Nat) (v : Value) : (s.setVal f v).txt = s.txt := rfl
@[simp] theorem State.setVal_host (f : Nat) (v : Value) : (s.setVal f v).host = s.host := rfl
@[simp] theorem State.setVal_hostData (f : Nat) (v : Value) : (s.setVal f v).hostData = s.hostData := rfl
@[simp] theorem State.setVal_freeCtr (f : Nat) (v : Value) : (s.setVal f v).freeCtr = s.freeCtr := rfl

/-! ### `setPres` -/

@[simp] theorem State.setPres_mti (i : Nat) (b : Bool) : (s.setPres i b).mti = s.mti := rfl
@[simp] theorem State.setPres_mtiValid (i : Nat) (b : Bool) : (s.setPres i b).mtiValid = s.mtiValid := rfl
@[simp] theorem State.setPres_pres (i : Nat) (b : Bool) : (s.setPres i b).pres = presSet s.pres i b := rfl
@[simp] theorem State.setPres_vals (i : Nat) (b : Bool) : (s.setPres i b).vals = s.vals := rfl
@[simp] theorem State.setPres_strict (i : Nat) (b : Bool) : (s.setPres i b).strict = s.strict := rfl
@[simp] theorem State.setPres_catsel (i : Nat) (b : Bool) : (s.setPres i b).catsel = s.catsel := rfl
@[simp] theorem State.setPres_bound (i : Nat) (b : Bool) : (s.setPres i b).bound = s.bound := rfl
@[simp] theorem State.setPres_phase (i : Nat) (b : Bool) : (s.setPres i b).phase = s.phase := rfl
@[simp] theorem State.setPres_fidx (i : Nat) (b : Bool) : (s.setPres i b).fidx = s.fidx := rfl
@[simp] theorem State.setPres_cursor (i : Nat) (b : Bool) : (s.setPres i b).cursor = s.cursor := rfl
@[simp] theorem State.setPres_kind (i : Nat) (b : Bool) : (s.setPres i b).kind = s.kind := rfl
@[simp] theorem State.setPres_busy (i : Nat) (b : Bool) : (s.setPres i b).busy = s.busy := rfl
@[simp] theorem State.setPres_cause (i : Nat) (b : Bool) : (s.setPres i b).cause = s.cause := rfl
@[simp] theorem State.setPres_ekey (i : Nat) (b : Bool) : (s.setPres i b).ekey = s.ekey := rfl
@[simp] theorem State.setPres_errinfo (i : Nat) (b : Bool) : (s.setPres i b).errinfo = s.errinfo := rfl
@[simp] theorem State.setPres_rxlen (i : Nat) (b : Bool) : (s.setPres i b).rxlen = s.rxlen := rfl
@[simp] theorem State.setPres_txlen (i : Nat) (b : Bool) : (s.setPres i b).txlen = s.txlen := rfl
@[simp] theorem State.setPres_oplen (i : Nat) (b : Bool) : (s.setPres i b).oplen = s.oplen := rfl
@[simp] theorem State.setPres_reslen (i : Nat) (b : Bool) : (s.setPres i b).reslen = s.reslen := rfl
@[simp] theorem State.setPres_resval (i : Nat) (b : Bool) : (s.setPres i b).resval = s.resval := rfl
@[simp] theorem State.setPres_rxbuf (i : Nat) (b : Bool) : (s.setPres i b).rxbuf = s.rxbuf := rfl
@[simp] theorem State.setPres_txbuf (i : Nat) (b : Bool) : (s.setPres i b).txbuf = s.txbuf := rfl
@[simp] theorem State.setPres_opbuf (i : Nat) (b : Bool) : (s.setPres i b).opbuf = s.opbuf := rfl
@[simp] theorem State.setPres_resbuf (i : Nat) (b : Bool) : (s.setPres i b).resbuf = s.resbuf := rfl
@[simp] theorem State.setPres_catrom (i : Nat) (b : Bool) : (s.setPres i b).catrom = s.catrom := rfl
@[simp] theorem State.setPres_params (i : Nat) (b : Bool) : (s.setPres i b).params = s.params := rfl
@[simp] theorem State.setPres_running (i : Nat) (b : Bool) : (s.setPres i b).running = s.running := rfl
@[simp] theorem State.setPres_stage (i : Nat) (b : Bool) : (s.setPres i b).stage = s.stage := rfl
@[simp] theorem State.setPres_desc (i : Nat) (b : Bool) : (s.setPres i b).desc = s.desc := rfl
@[simp] theorem State.setPres_len (i : Nat) (b : Bool) : (s.setPres i b).len = s.len := rfl
@[simp] theorem State.setPres_txt (i : Nat) (b : Bool) : (s.setPres i b).txt = s.txt := rfl
@[simp] theorem State.setPres_host (i : Nat) (b : Bool) : (s.setPres i b).host = s.host := rfl
@[simp] theorem State.setPres_hostData (i : Nat) (b : Bool) : (s.setPres i b).hostData = s.hostData := rfl
@[simp] theorem State.setPres_freeCtr (i : Nat) (b : Bool) : (s.setPres i b).freeCtr = s.freeCtr := rfl

/-! ### `storeMti` -/

@[simp] theorem State.storeMti_mti (t : Bytes) : (s.storeMti t).mti = mtiOfBytes t := rfl
@[simp] theorem State.storeMti_mtiValid (t : Bytes) : (s.storeMti t).mtiValid = true := rfl
@[simp] theorem State.storeMti_pres (t : Bytes) : (s.storeMti t).pres = s.pres := rfl
@[simp] theorem State.storeMti_vals (t : Bytes) : (s.storeMti t).vals = s.vals := rfl
@[simp] theorem State.storeMti_strict (t : Bytes) : (s.storeMti t).strict = s.strict := rfl
@[simp] theorem State.storeMti_catsel (t : Bytes) : (s.storeMti t).catsel = s.catsel := rfl
@[simp] theorem State.storeMti_bound (t : Bytes) : (s.storeMti t).bound = s.bound := rfl
@[simp] theorem State.storeMti_phase (t : Bytes) : (s.storeMti t).phase = s.phase := rfl
@[simp] theorem State.storeMti_fidx (t : Bytes) : (s.storeMti t).fidx = s.fidx := rfl
@[simp] theorem State.storeMti_cursor (t : Bytes) : (s.storeMti t).cursor = s.cursor := rfl
@[simp] theorem State.storeMti_kind (t : Bytes) : (s.storeMti t).kind = s.kind := rfl
@[simp] theorem State.storeMti_busy (t : Bytes) : (s.storeMti t).busy = s.busy := rfl
@[simp] theorem State.storeMti_cause (t : Bytes) : (s.storeMti t).cause = s.cause := rfl
@[simp] theorem State.storeMti_ekey (t : Bytes) : (s.storeMti t).ekey = s.ekey := rfl
@[simp] theorem State.storeMti_errinfo (t : Bytes) : (s.storeMti t).errinfo = s.errinfo := rfl
@[simp] theorem State.storeMti_rxlen (t : Bytes) : (s.storeMti t).rxlen = s.rxlen := rfl
@[simp] theorem State.storeMti_txlen (t : Bytes) : (s.storeMti t).txlen = s.txlen := rfl
@[simp] theorem State.storeMti_oplen (t : Bytes) : (s.storeMti t).oplen = s.oplen := rfl
@[simp] theorem State.storeMti_reslen (t : Bytes) : (s.storeMti t).reslen = s.reslen := rfl
@[simp] theorem State.storeMti_resval (t : Bytes) : (s.storeMti t).resval = s.resval := rfl
@[simp] theorem State.storeMti_rxbuf (t : Bytes) : (s.storeMti t).rxbuf = s.rxbuf := rfl
@[simp] theorem State.storeMti_txbuf (t : Bytes) : (s.storeMti t).txbuf = s.txbuf := rfl
@[simp] theorem State.storeMti_opbuf (t : Bytes) : (s.storeMti t).opbuf = s.opbuf := rfl
@[simp] theorem State.storeMti_resbuf (t : Bytes) : (s.storeMti t).resbuf = s.resbuf := rfl
@[simp] theorem State.storeMti_catrom (t : Bytes) : (s.storeMti t).catrom = s.catrom := rfl
@[simp] theorem State.storeMti_params (t : Bytes) : (s.storeMti t).params = s.params := rfl
@[simp] theorem State.storeMti_running (t : Bytes) : (s.storeMti t).running = s.running := rfl
@[simp] theorem State.storeMti_stage (t : Bytes) : (s.storeMti t).stage = s.stage := rfl
@[simp] theorem State.storeMti_desc (t : Bytes) : (s.storeMti t).desc = s.desc := rfl
@[simp] theorem State.storeMti_len (t : Bytes) : (s.storeMti t).len = s.len := rfl
@[simp] theorem State.storeMti_txt (t : Bytes) : (s.storeMti t).txt = s.txt := rfl
@[simp] theorem State.storeMti_host (t : Bytes) : (s.storeMti t).host = s.host := rfl
@[simp] theorem State.storeMti_hostData (t : Bytes) : (s.storeMti t).hostData = s.hostData := rfl
@[simp] theorem State.storeMti_freeCtr (t : Bytes) : (s.storeMti t).freeCtr = s.freeCtr := rfl

/-! ### `setPrimary` -/

@[simp] theorem State.setPrimary_mti (w : BitmapWord) : (s.setPrimary w).mti = s.mti := rfl
@[simp] theorem State.setPrimary_mtiValid (w : BitmapWord) : (s.setPrimary w).mtiValid = s.mtiValid := rfl
@[simp] theorem State.setPrimary_pres (w : BitmapWord) : (s.setPrimary w).pres = presOfWords w (secondaryWord s.pres) := rfl
@[simp] theorem State.setPrimary_vals (w : BitmapWord) : (s.setPrimary w).vals = s.vals := rfl
@[simp] theorem State.setPrimary_strict (w : BitmapWord) : (s.setPrimary w).strict = s.strict := rfl
@[simp] theorem State.setPrimary_catsel (w : BitmapWord) : (s.setPrimary w).catsel = s.catsel := rfl
@[simp] theorem State.setPrimary_bound (w : BitmapWord) : (s.setPrimary w).bound = s.bound := rfl
@[simp] theorem State.setPrimary_phase (w : BitmapWord) : (s.setPrimary w).phase = s.phase := rfl
@[simp] theorem State.setPrimary_fidx (w : BitmapWord) : (s.setPrimary w).fidx = s.fidx := rfl
@[simp] theorem State.setPrimary_cursor (w : BitmapWord) : (s.setPrimary w).cursor = s.cursor := rfl
@[simp] theorem State.setPrimary_kind (w : BitmapWord) : (s.setPrimary w).kind = s.kind := rfl
@[simp] theorem State.setPrimary_busy (w : BitmapWord) : (s.setPrimary w).busy = s.busy := rfl
@[simp] theorem State.setPrimary_cause (w : BitmapWord) : (s.setPrimary w).cause = s.cause := rfl
@[simp] theorem State.setPrimary_ekey (w : BitmapWord) : (s.setPrimary w).ekey = s.ekey := rfl
@[simp] theorem State.setPrimary_errinfo (w : BitmapWord) : (s.setPrimary w).errinfo = s.errinfo := rfl
@[simp] theorem State.setPrimary_rxlen (w : BitmapWord) : (s.setPrimary w).rxlen = s.rxlen := rfl
@[simp] theorem State.setPrimary_txlen (w : BitmapWord) : (s.setPrimary w).txlen = s.txlen := rfl
@[simp] theorem State.setPrimary_oplen (w : BitmapWord) : (s.setPrimary w).oplen = s.oplen := rfl
@[simp] theorem State.setPrimary_reslen (w : BitmapWord) : (s.setPrimary w).reslen = s.reslen := rfl
@[simp] theorem State.setPrimary_resval (w : BitmapWord) : (s.setPrimary w).resval = s.resval := rfl
@[simp] theorem State.setPrimary_rxbuf (w : BitmapWord) : (s.setPrimary w).rxbuf = s.rxbuf := rfl
@[simp] theorem State.setPrimary_txbuf (w : BitmapWord) : (s.setPrimary w).txbuf = s.txbuf := rfl
@[simp] theorem State.setPrimary_opbuf (w : BitmapWord) : (s.setPrimary w).opbuf = s.opbuf := rfl
@[simp] theorem State.setPrimary_resbuf (w : BitmapWord) : (s.setPrimary w).resbuf = s.resbuf := rfl
@[simp] theorem State.setPrimary_catrom (w : BitmapWord) : (s.setPrimary w).catrom = s.catrom := rfl
@[simp] theorem State.setPrimary_params (w : BitmapWord) : (s.setPrimary w).params = s.params := rfl
@[simp] theorem State.setPrimary_running (w : BitmapWord) : (s.setPrimary w).running = s.running := rfl
@[simp] theorem State.setPrimary_stage (w : BitmapWord) : (s.setPrimary w).stage = s.stage := rfl
@[simp] theorem State.setPrimary_desc (w : BitmapWord) : (s.setPrimary w).desc = s.desc := rfl
@[simp] theorem State.setPrimary_len (w : BitmapWord) : (s.setPrimary w).len = s.len := rfl
@[simp] theorem State.setPrimary_txt (w : BitmapWord) : (s.setPrimary w).txt = s.txt := rfl
@[simp] theorem State.setPrimary_host (w : BitmapWord) : (s.setPrimary w).host = s.host := rfl
@[simp] theorem State.setPrimary_hostData (w : BitmapWord) : (s.setPrimary w).hostData = s.hostData := rfl
@[simp] theorem State.setPrimary_freeCtr (w : BitmapWord) : (s.setPrimary w).freeCtr = s.freeCtr := rfl

/-! ### `setSecondary` -/

@[simp] theorem State.setSecondary_mti (w : BitmapWord) : (s.setSecondary w).mti = s.mti := rfl
@[simp] theorem State.setSecondary_mtiValid (w : BitmapWord) : (s.setSecondary w).mtiValid = s.mtiValid := rfl
@[simp] theorem State.setSecondary_pres (w : BitmapWord) : (s.setSecondary w).pres = presOfWords (primaryWord s.pres) w := rfl
@[simp] theorem State.setSecondary_vals (w : BitmapWord) : (s.setSecondary w).vals = s.vals := rfl
@[simp] theorem State.setSecondary_strict (w : BitmapWord) : (s.setSecondary w).strict = s.strict := rfl
@[simp] theorem State.setSecondary_catsel (w : BitmapWord) : (s.setSecondary w).catsel = s.catsel := rfl
@[simp] theorem State.setSecondary_bound (w : BitmapWord) : (s.setSecondary w).bound = s.bound := rfl
@[simp] theorem State.setSecondary_phase (w : BitmapWord) : (s.setSecondary w).phase = s.phase := rfl
@[simp] theorem State.setSecondary_fidx (w : BitmapWord) : (s.setSecondary w).fidx = s.fidx := rfl
@[simp] theorem State.setSecondary_cursor (w : BitmapWord) : (s.setSecondary w).cursor = s.cursor := rfl
@[simp] theorem State.setSecondary_kind (w : BitmapWord) : (s.setSecondary w).kind = s.kind := rfl
@[simp] theorem State.setSecondary_busy (w : BitmapWord) : (s.setSecondary w).busy = s.busy := rfl
@[simp] theorem State.setSecondary_cause (w : BitmapWord) : (s.setSecondary w).cause = s.cause := rfl
@[simp] theorem State.setSecondary_ekey (w : BitmapWord) : (s.setSecondary w).ekey = s.ekey := rfl
@[simp] theorem State.setSecondary_errinfo (w : BitmapWord) : (s.setSecondary w).errinfo = s.errinfo := rfl
@[simp] theorem State.setSecondary_rxlen (w : BitmapWord) : (s.setSecondary w).rxlen = s.rxlen := rfl
@[simp] theorem State.setSecondary_txlen (w : BitmapWord) : (s.setSecondary w).txlen = s.txlen := rfl
@[simp] theorem State.setSecondary_oplen (w : BitmapWord) : (s.setSecondary w).oplen = s.oplen := rfl
@[simp] theorem State.setSecondary_reslen (w : BitmapWord) : (s.setSecondary w).reslen = s.reslen := rfl
@[simp] theorem State.setSecondary_resval (w : BitmapWord) : (s.setSecondary w).resval = s.resval := rfl
@[simp] theorem State.setSecondary_rxbuf (w : BitmapWord) : (s.setSecondary w).rxbuf = s.rxbuf := rfl
@[simp] theorem State.setSecondary_txbuf (w : BitmapWord) : (s.setSecondary w).txbuf = s.txbuf := rfl
@[simp] theorem State.setSecondary_opbuf (w : BitmapWord) : (s.setSecondary w).opbuf = s.opbuf := rfl
@[simp] theorem State.setSecondary_resbuf (w : BitmapWord) : (s.setSecondary w).resbuf = s.resbuf := rfl
@[simp] theorem State.setSecondary_catrom (w : BitmapWord) : (s.setSecondary w).catrom = s.catrom := rfl
@[simp] theorem State.setSecondary_params (w : BitmapWord) : (s.setSecondary w).params = s.params := rfl
@[simp] theorem State.setSecondary_running (w : BitmapWord) : (s.setSecondary w).running = s.running := rfl
@[simp] theorem State.setSecondary_stage (w : BitmapWord) : (s.setSecondary w).stage = s.stage := rfl
@[simp] theorem State.setSecondary_desc (w : BitmapWord) : (s.setSecondary w).desc = s.desc := rfl
@[simp] theorem State.setSecondary_len (w : BitmapWord) : (s.setSecondary w).len = s.len := rfl
@[simp] theorem State.setSecondary_txt (w : BitmapWord) : (s.setSecondary w).txt = s.txt := rfl
@[simp] theorem State.setSecondary_host (w : BitmapWord) : (s.setSecondary w).host = s.host := rfl
@[simp] theorem State.setSecondary_hostData (w : BitmapWord) : (s.setSecondary w).hostData = s.hostData := rfl
@[simp] theorem State.setSecondary_freeCtr (w : BitmapWord) : (s.setSecondary w).freeCtr = s.freeCtr := rfl

/-! ### `okEnd` -/

@[simp] theorem State.okEnd_mti : (s.okEnd).mti = s.mti := rfl
@[simp] theorem State.okEnd_mtiValid : (s.okEnd).mtiValid = s.mtiValid := rfl
@[simp] theorem State.okEnd_pres : (s.okEnd).pres = s.pres := rfl
@[simp] theorem State.okEnd_vals : (s.okEnd).vals = s.vals := rfl
@[simp] theorem State.okEnd_strict : (s.okEnd).strict = s.strict := rfl
@[simp] theorem State.okEnd_catsel : (s.okEnd).catsel = s.catsel := rfl
@[simp] theorem State.okEnd_bound : (s.okEnd).bound = s.bound := rfl
@[simp] theorem State.okEnd_phase : (s.okEnd).phase = .idle := rfl
@[simp] theorem State.okEnd_fidx : (s.okEnd).fidx = s.fidx := rfl
@[simp] theorem State.okEnd_cursor : (s.okEnd).cursor = s.cursor := rfl
@[simp] theorem State.okEnd_kind : (s.okEnd).kind = .ok := rfl
@[simp] theorem State.okEnd_busy : (s.okEnd).busy = false := rfl
@[simp] theorem State.okEnd_cause : (s.okEnd).cause = .none := rfl
@[simp] theorem State.okEnd_ekey : (s.okEnd).ekey = none := rfl
@[simp] theorem State.okEnd_errinfo : (s.okEnd).errinfo = 0 := rfl
@[simp] theorem State.okEnd_rxlen : (s.okEnd).rxlen = s.rxlen := rfl
@[simp] theorem State.okEnd_txlen : (s.okEnd).txlen = s.txlen := rfl
@[simp] theorem State.okEnd_oplen : (s.okEnd).oplen = s.oplen := rfl
@[simp] theorem State.okEnd_reslen : (s.okEnd).reslen = 0 := rfl
@[simp] theorem State.okEnd_resval : (s.okEnd).resval = 0 := rfl
@[simp] theorem State.okEnd_rxbuf : (s.okEnd).rxbuf = s.rxbuf := rfl
@[simp] theorem State.okEnd_txbuf : (s.okEnd).txbuf = s.txbuf := rfl
@[simp] theorem State.okEnd_opbuf : (s.okEnd).opbuf = s.opbuf := rfl
@[simp] theorem State.okEnd_resbuf : (s.okEnd).resbuf = s.resbuf := rfl
@[simp] theorem State.okEnd_catrom : (s.okEnd).catrom = s.catrom := rfl
@[simp] theorem State.okEnd_params : (s.okEnd).params = s.params := rfl
@[simp] theorem State.okEnd_running : (s.okEnd).running = .none := rfl
@[simp] theorem State.okEnd_stage : (s.okEnd).stage = none := rfl
@[simp] theorem State.okEnd_desc : (s.okEnd).desc = 0 := rfl
@[simp] theorem State.okEnd_len : (s.okEnd).len = 0 := rfl
@[simp] theorem State.okEnd_txt : (s.okEnd).txt = [] := rfl
@[simp] theorem State.okEnd_host : (s.okEnd).host = s.host := rfl
@[simp] theorem State.okEnd_hostData : (s.okEnd).hostData = s.hostData := rfl
@[simp] theorem State.okEnd_freeCtr : (s.okEnd).freeCtr = s.freeCtr := rfl

/-! ### `errEnd` -/

@[simp] theorem State.errEnd_mti (k : Kind) (c : Cause) (key : Option Nat) : (s.errEnd k c key).mti = s.mti := rfl
@[simp] theorem State.errEnd_mtiValid (k : Kind) (c : Cause) (key : Option Nat) : (s.errEnd k c key).mtiValid = s.mtiValid := rfl
@[simp] theorem State.errEnd_pres (k : Kind) (c : Cause) (key : Option Nat) : (s.errEnd k c key).pres = s.pres := rfl
@[simp] theorem State.errEnd_vals (k : Kind) (c : Cause) (key : Option Nat) : (s.errEnd k c key).vals = s.vals := rfl
@[simp] theorem State.errEnd_strict (k : Kind) (c : Cause) (key : Option Nat) : (s.errEnd k c key).strict = s.strict := rfl
@[simp] theorem State.errEnd_catsel (k : Kind) (c : Cause) (key : Option Nat) : (s.errEnd k c key).catsel = s.catsel := rfl
@[simp] theorem State.errEnd_bound (k : Kind) (c : Cause) (key : Option Nat) : (s.errEnd k c key).bound = s.bound := rfl
@[simp] theorem State.errEnd_phase (k : Kind) (c : Cause) (key : Option Nat) : (s.errEnd k c key).phase = .idle := rfl
@[simp] theorem State.errEnd_fidx (k : Kind) (c : Cause) (key : Option Nat) : (s.errEnd k c key).fidx = s.fidx := rfl
@[simp] theorem State.errEnd_cursor (k : Kind) (c : Cause) (key : Option Nat) : (s.errEnd k c key).cursor = s.cursor := rfl
@[simp] theorem State.errEnd_kind (k : Kind) (c : Cause) (key : Option Nat) : (s.errEnd k c key).kind = k := rfl
@[simp] theorem State.errEnd_busy (k : Kind) (c : Cause) (key : Option Nat) : (s.errEnd k c key).busy = false := rfl
@[simp] theorem State.errEnd_cause (k : Kind) (c : Cause) (key : Option Nat) : (s.errEnd k c key).cause = c := rfl
@[simp] theorem State.errEnd_ekey (k : Kind) (c : Cause) (key : Option Nat) : (s.errEnd k c key).ekey = key := rfl
@[simp] theorem State.errEnd_errinfo (k : Kind) (c : Cause) (key : Option Nat) : (s.errEnd k c key).errinfo = s.errinfo := rfl
@[simp] theorem State.errEnd_rxlen (k : Kind) (c : Cause) (key : Option Nat) : (s.errEnd k c key).rxlen = s.rxlen := rfl
@[simp] theorem State.errEnd_txlen (k : Kind) (c : Cause) (key : Option Nat) : (s.errEnd k c key).txlen = s.txlen := rfl
@[simp] theorem State.errEnd_oplen (k : Kind) (c : Cause) (key : Option Nat) : (s.errEnd k c key).oplen = s.oplen := rfl
@[simp] theorem State.errEnd_reslen (k : Kind) (c : Cause) (key : Option Nat) : (s.errEnd k c key).reslen = 0 := rfl
@[simp] theorem State.errEnd_resval (k : Kind) (c : Cause) (key : Option Nat) : (s.errEnd k c key).resval = 0 := rfl
@[simp] theorem State.errEnd_rxbuf (k : Kind) (c : Cause) (key : Option Nat) : (s.errEnd k c key).rxbuf = s.rxbuf := rfl
@[simp] theorem State.errEnd_txbuf (k : Kind) (c : Cause) (key : Option Nat) : (s.errEnd k c key).txbuf = s.txbuf := rfl
@[simp] theorem State.errEnd_opbuf (k : Kind) (c : Cause) (key : Option Nat) : (s.errEnd k c key).opbuf = s.opbuf := rfl
@[simp] theorem State.errEnd_resbuf (k : Kind) (c : Cause) (key : Option Nat) : (s.errEnd k c key).resbuf = s.resbuf := rfl
@[simp] theorem State.errEnd_catrom (k : Kind) (c : Cause) (key : Option Nat) : (s.errEnd k c key).catrom = s.catrom := rfl
@[simp] theorem State.errEnd_params (k : Kind) (c : Cause) (key : Option Nat) : (s.errEnd k c key).params = s.params := rfl
@[simp] theorem State.errEnd_running (k : Kind) (c : Cause) (key : Option Nat) : (s.errEnd k c key).running = .none := rfl
@[simp] theorem State.errEnd_stage (k : Kind) (c : Cause) (key : Option Nat) : (s.errEnd k c key).stage = none := rfl
@[simp] theorem State.errEnd_desc (k : Kind) (c : Cause) (key : Option Nat) : (s.errEnd k c key).desc = 0 := rfl
@[simp] theorem State.errEnd_len (k : Kind) (c : Cause) (key : Option Nat) : (s.errEnd k c key).len = 0 := rfl
@[simp] theorem State.errEnd_txt (k : Kind) (c : Cause) (key : Option Nat) : (s.errEnd k c key).txt = [] := rfl
@[simp] theorem State.errEnd_host (k : Kind) (c : Cause) (key : Option Nat) : (s.errEnd k c key).host = s.host := rfl
@[simp] theorem State.errEnd_hostData (k : Kind) (c : Cause) (key : Option Nat) : (s.errEnd k c key).hostData = s.hostData := rfl
@[simp] theorem State.errEnd_freeCtr (k : Kind) (c : Cause) (key : Option Nat) : (s.errEnd k c key).freeCtr = s.freeCtr := rfl

end Sys2Proof.Machine
end

