-- ==== Sys2Proof/Laws/Memory.lean ====
section
/-! SUPPORT. The laws of sparse arrays and byte buffers: a read after a write, every other index unchanged, and the
canonical form kept by every operation. -/

namespace Sys2Proof.Machine

section Sparse

variable {α : Type} [DecidableEq α] {d : α}

omit [DecidableEq α] in
theorem sparseGet_erase (m : List (Nat × α)) (k j : Nat) :
    sparseGet d (sparseErase k m) j = if j = k then d else sparseGet d m j := by
  induction m with
  | nil => simp [sparseErase, sparseGet]
  | cons p rest ih =>
    obtain ⟨k', v⟩ := p
    by_cases h : k' = k
    · subst h
      by_cases hj : j = k'
      · subst hj
        simpa [sparseErase] using ih
      · simp [sparseErase, sparseGet, ih, hj, Ne.symm hj]
    · by_cases hj : k' = j
      · subst hj
        simp [sparseErase, sparseGet, h]
      · simp [sparseErase, sparseGet, ih, h, hj]

omit [DecidableEq α] in
theorem sparseGet_insert (m : List (Nat × α)) (k j : Nat) (v : α) (hm : ∀ p ∈ m, p.1 ≠ k) :
    sparseGet d (sparseInsert k v m) j = if j = k then v else sparseGet d m j := by
  induction m with
  | nil => simp [sparseInsert, sparseGet, eq_comm]
  | cons p rest ih =>
    obtain ⟨k', w⟩ := p
    have hk : k' ≠ k := hm (k', w) (by simp)
    have hr : ∀ p ∈ rest, p.1 ≠ k := fun p hp => hm p (by simp [hp])
    by_cases hj : j = k
    · subst hj
      by_cases h : j < k' <;> simp [sparseInsert, sparseGet, h, hk, ih hr]
    · by_cases h : k < k'
      · simp [sparseInsert, sparseGet, h, hj, Ne.symm hj]
      · simp [sparseInsert, sparseGet, h, hj, ih hr]

omit [DecidableEq α] in
theorem not_mem_sparseErase (m : List (Nat × α)) (k : Nat) : ∀ p ∈ sparseErase k m, p.1 ≠ k := by
  induction m with
  | nil => simp [sparseErase]
  | cons p rest ih =>
    obtain ⟨k', v⟩ := p
    by_cases h : k' = k
    · simpa [sparseErase, h] using ih
    · intro q hq
      simp only [sparseErase, h, if_false, List.mem_cons] at hq
      rcases hq with rfl | hq
      · exact h
      · exact ih q hq

/-- A read after a write. -/
theorem sparseGet_set (m : List (Nat × α)) (k j : Nat) (v : α) :
    sparseGet d (sparseSet d m k v) j = if j = k then v else sparseGet d m j := by
  unfold sparseSet
  split
  · next h => subst h; rw [sparseGet_erase]
  · rw [sparseGet_insert _ _ _ _ (not_mem_sparseErase m k), sparseGet_erase]
    by_cases hj : j = k <;> simp [hj]

omit [DecidableEq α] in
theorem mem_sparseErase {m : List (Nat × α)} {k : Nat} {p : Nat × α} (h : p ∈ sparseErase k m) : p ∈ m := by
  induction m with
  | nil => simp [sparseErase] at h
  | cons q rest ih =>
    obtain ⟨k', v⟩ := q
    by_cases hk : k' = k
    · simp only [sparseErase, hk, if_true] at h
      exact List.mem_cons_of_mem _ (ih h)
    · simp only [sparseErase, hk, if_false, List.mem_cons] at h
      rcases h with rfl | h
      · simp
      · exact List.mem_cons_of_mem _ (ih h)

omit [DecidableEq α] in
theorem mem_sparseInsert {m : List (Nat × α)} {k : Nat} {v : α} {p : Nat × α} (h : p ∈ sparseInsert k v m) :
    p = (k, v) ∨ p ∈ m := by
  induction m with
  | nil => simpa [sparseInsert] using h
  | cons q rest ih =>
    obtain ⟨k', w⟩ := q
    by_cases hk : k < k'
    · simpa [sparseInsert, hk] using h
    · simp only [sparseInsert, hk, if_false, List.mem_cons] at h
      rcases h with rfl | h
      · simp
      · rcases ih h with h | h
        · exact .inl h
        · exact .inr (by simp [h])

/-- Every entry of a written array is the one written or an old one. -/
theorem mem_sparseSet {m : List (Nat × α)} {k : Nat} {v : α} {p : Nat × α} (h : p ∈ sparseSet d m k v) :
    p = (k, v) ∨ p ∈ m := by
  unfold sparseSet at h
  split at h
  · exact .inr (mem_sparseErase h)
  · rcases mem_sparseInsert h with h | h
    · exact .inl h
    · exact .inr (mem_sparseErase h)

theorem SparseWf.erase {m : List (Nat × α)} (h : SparseWf d m) (k : Nat) : SparseWf d (sparseErase k m) := by
  refine ⟨?_, fun p hp => h.2 p (mem_sparseErase hp)⟩
  induction m with
  | nil => simp [sparseErase]
  | cons q rest ih =>
    obtain ⟨k', v⟩ := q
    have hp := List.pairwise_cons.1 h.1
    have hr : SparseWf d rest := ⟨hp.2, fun p hp => h.2 p (by simp [hp])⟩
    by_cases hk : k' = k
    · simpa [sparseErase, hk] using ih hr
    · simp only [sparseErase, hk, if_false, List.pairwise_cons]
      exact ⟨fun p h => hp.1 p (mem_sparseErase h), ih hr⟩

theorem SparseWf.insert {m : List (Nat × α)} (h : SparseWf d m) {k : Nat} {v : α} (hv : v ≠ d)
    (hk : ∀ p ∈ m, p.1 ≠ k) : SparseWf d (sparseInsert k v m) := by
  refine ⟨?_, fun p hp => ?_⟩
  · induction m with
    | nil => simp [sparseInsert]
    | cons q rest ih =>
      obtain ⟨k', w⟩ := q
      have hp := List.pairwise_cons.1 h.1
      have hr : SparseWf d rest := ⟨hp.2, fun p hp => h.2 p (by simp [hp])⟩
      have hne : k' ≠ k := hk (k', w) (by simp)
      by_cases hlt : k < k'
      · simp only [sparseInsert, hlt, if_true, List.pairwise_cons]
        refine ⟨fun p hp' => ?_, hp⟩
        rcases List.mem_cons.1 hp' with rfl | hp'
        · exact hlt
        · exact lt_trans hlt (hp.1 p hp')
      · simp only [sparseInsert, hlt, if_false, List.pairwise_cons]
        refine ⟨fun p hp' => ?_, ih hr (fun p hp' => hk p (by simp [hp']))⟩
        rcases mem_sparseInsert hp' with rfl | hp'
        · change k' < k; omega
        · exact hp.1 p hp'
  · rcases mem_sparseInsert hp with rfl | hp
    · exact hv
    · exact h.2 p hp

/-- A write keeps the canonical form. -/
theorem SparseWf.set {m : List (Nat × α)} (h : SparseWf d m) (k : Nat) (v : α) : SparseWf d (sparseSet d m k v) := by
  unfold sparseSet
  split
  · exact h.erase k
  · next hv => exact (h.erase k).insert hv (not_mem_sparseErase m k)

/-- Arrays in canonical form that read the same everywhere are the same. -/
theorem SparseWf.ext {m m' : List (Nat × α)} (h : SparseWf d m) (h' : SparseWf d m')
    (heq : ∀ k, sparseGet d m k = sparseGet d m' k) : m = m' := by
  have get_lt : ∀ (l : List (Nat × α)) (k : Nat), (∀ p ∈ l, k < p.1) → sparseGet d l k = d := by
    intro l k hl
    induction l with
    | nil => rfl
    | cons q rest ih =>
      have : q.1 ≠ k := Nat.ne_of_gt (hl q (by simp))
      simpa [sparseGet, this] using ih (fun p hp => hl p (by simp [hp]))
  induction m generalizing m' with
  | nil =>
    cases m' with
    | nil => rfl
    | cons q rest =>
      have := heq q.1
      simp only [sparseGet, if_true] at this
      exact absurd this.symm (h'.2 q (by simp))
  | cons p rest ih =>
    have hp := List.pairwise_cons.1 h.1
    cases m' with
    | nil =>
      have := heq p.1
      simp only [sparseGet, if_true] at this
      exact absurd this (h.2 p (by simp))
    | cons q rest' =>
      have hq := List.pairwise_cons.1 h'.1
      have hkey : p.1 = q.1 := by
        rcases Nat.lt_trichotomy p.1 q.1 with hlt | he | hlt
        · have h2 := heq p.1
          rw [get_lt (q :: rest') p.1 (fun r hr => by
            rcases List.mem_cons.1 hr with rfl | hr
            · exact hlt
            · exact lt_trans hlt (hq.1 r hr))] at h2
          simp only [sparseGet, if_true] at h2
          exact absurd h2 (h.2 p (by simp))
        · exact he
        · have h2 := heq q.1
          rw [get_lt (p :: rest) q.1 (fun r hr => by
            rcases List.mem_cons.1 hr with rfl | hr
            · exact hlt
            · exact lt_trans hlt (hp.1 r hr))] at h2
          simp only [sparseGet, if_true] at h2
          exact absurd h2.symm (h'.2 q (by simp))
      have hval : p.2 = q.2 := by
        have h2 := heq p.1
        simpa [sparseGet, hkey] using h2
      have hpq : p = q := Prod.ext hkey hval
      subst hpq
      congr 1
      refine ih ⟨hp.2, fun r hr => h.2 r (by simp [hr])⟩ ⟨hq.2, fun r hr => h'.2 r (by simp [hr])⟩ (fun k => ?_)
      by_cases hk : p.1 = k
      · subst hk
        rw [get_lt rest _ hp.1, get_lt rest' _ hq.1]
      · have h2 := heq k
        simpa [sparseGet, hk] using h2

end Sparse

/-! ### Byte buffers -/

/-- A byte read after a byte write. -/
theorem memRead_memWrite (m : Memory) (a j : Nat) (b : Byte) :
    memRead (memWrite m a b) j = if j = a then b else memRead m j := sparseGet_set m a j b

theorem MemoryWf.write {m : Memory} (h : MemoryWf m) (a : Nat) (b : Byte) : MemoryWf (memWrite m a b) := h.set a b

/-- A write of bytes keeps the canonical form. -/
theorem MemoryWf.writeRange {m : Memory} (h : MemoryWf m) (a : Nat) (v : Bytes) : MemoryWf (memWriteRange m a v) := by
  induction v generalizing m a with
  | nil => exact h
  | cons b rest ih => exact ih (h.write a b) (a + 1)

/-- A byte read after a write of bytes. -/
theorem memRead_memWriteRange (m : Memory) (a : Nat) (v : Bytes) (j : Nat) :
    memRead (memWriteRange m a v) j = if a ≤ j ∧ j < a + v.length then v.getD (j - a) 0 else memRead m j := by
  induction v generalizing m a with
  | nil => simp [memWriteRange]
  | cons b rest ih =>
    simp only [memWriteRange, ih, memRead_memWrite, List.length_cons]
    by_cases h1 : a + 1 ≤ j ∧ j < a + 1 + rest.length
    · have h2 : a ≤ j ∧ j < a + (rest.length + 1) := by omega
      have h3 : j - a = (j - (a + 1)) + 1 := by omega
      rw [if_pos h1, if_pos h2, h3]
      simp
    · rw [if_neg h1]
      by_cases hj : j = a
      · subst hj
        simp
      · have h2 : ¬(a ≤ j ∧ j < a + (rest.length + 1)) := by omega
        rw [if_neg h2, if_neg hj]

@[simp] theorem memReadRange_length (m : Memory) (a n : Nat) : (memReadRange m a n).length = n := by
  simp [memReadRange]

@[simp] theorem memReadRange_zero (m : Memory) (a : Nat) : memReadRange m a 0 = [] := rfl

theorem memReadRange_getElem? (m : Memory) (a n i : Nat) :
    (memReadRange m a n)[i]? = if i < n then some (memRead m (a + i)) else none := by
  simp [memReadRange]
  split <;> simp_all

/-- Two ranges read the same when their bytes do. -/
theorem memReadRange_ext {m m' : Memory} {a a' n : Nat} (h : ∀ i, i < n → memRead m (a + i) = memRead m' (a' + i)) :
    memReadRange m a n = memReadRange m' a' n := by
  apply List.ext_getElem?
  intro i
  rw [memReadRange_getElem?, memReadRange_getElem?]
  split
  · next hi => rw [h i hi]
  · rfl

/-- A range in two parts. -/
theorem memReadRange_add (m : Memory) (a n k : Nat) :
    memReadRange m a (n + k) = memReadRange m a n ++ memReadRange m (a + n) k := by
  apply List.ext_getElem?
  intro i
  simp only [memReadRange_getElem?, List.getElem?_append, memReadRange_length]
  by_cases h : i < n
  · simp [h]; omega
  · rw [if_neg h]
    by_cases h2 : i - n < k
    · rw [if_pos h2, if_pos (by omega)]
      congr 2
      omega
    · rw [if_neg h2, if_neg (by omega)]

/-- The written bytes read back, and nothing else changes. -/
theorem stored_memWriteRange (m : Memory) (a : Nat) (v : Bytes) : Stored m (memWriteRange m a v) a v := by
  refine ⟨?_, fun j hj => ?_⟩
  · apply List.ext_getElem?
    intro i
    rw [memReadRange_getElem?, memRead_memWriteRange]
    split
    · next hi =>
      rw [if_pos (by omega)]
      simp [List.getD_eq_getElem?_getD, hi]
    · next hi => simp at hi; simp [hi]
  · rw [memRead_memWriteRange, if_neg (by omega)]

theorem Stored.refl (m : Memory) (a : Nat) : Stored m m a [] := ⟨rfl, fun _ _ => rfl⟩

/-- Two stores one behind the other are one store. -/
theorem Stored.append {m m' m'' : Memory} {a : Nat} {v w : Bytes} (h : Stored m m' a v)
    (h' : Stored m' m'' (a + v.length) w) : Stored m m'' a (v ++ w) := by
  refine ⟨?_, fun j hj => ?_⟩
  · rw [List.length_append, memReadRange_add, h'.1]
    congr 1
    rw [← h.1]
    simp only [memReadRange_length]
    exact memReadRange_ext (fun i hi => h'.2 _ (by omega))
  · rw [List.length_append] at hj
    rw [h'.2 j (by omega), h.2 j (by omega)]

/-- After reset every buffer is in canonical form. -/
theorem reset_memoryWf : MemoryWf State.reset.rxbuf ∧ MemoryWf State.reset.txbuf ∧ MemoryWf State.reset.opbuf ∧
    MemoryWf State.reset.resbuf := by decide

/-! ### Value slots -/

/-- A slot read after a slot write. -/
theorem State.val_setVal (s : State) (f g : Nat) (v : Value) :
    (s.setVal f v).val g = if g = f then v else s.val g := sparseGet_set s.vals f g v

end Sys2Proof.Machine
end

