-- ==== Sys2Proof/Laws/Ops.lean ====
section
/-! SUPPORT. For each shared operation, what it does: the command frame, the ends of a command, the access primitives,
the catalog lookup, the presence bits and the walk from field to field. -/

namespace Sys2Proof.Machine

/-! ### Computations that may raise -/

@[simp] theorem Res.bind_val {α β : Type} (a : α) (s : State) (f : α → State → Res β) :
    (Res.val a s).bind f = f a s := rfl

@[simp] theorem Res.bind_stop {α β : Type} (s : State) (f : α → State → Res β) : (Res.stop s).bind f = .stop s := rfl

@[simp] theorem Res.andThen_val {α : Type} (a : α) (s : State) (f : α → State → State) :
    (Res.val a s).andThen f = f a s := rfl

@[simp] theorem Res.andThen_stop {α : Type} (s : State) (f : α → State → State) : (Res.stop s).andThen f = s := rfl

@[simp] theorem Res.fail_bind {α β : Type} (s : State) (k : Kind) (c : Cause) (key : Option Nat)
    (f : α → State → Res β) : (Res.fail (α := α) s k c key).bind f = .fail s k c key := rfl

@[simp] theorem Res.fail_andThen {α : Type} (s : State) (k : Kind) (c : Cause) (key : Option Nat)
    (f : α → State → State) : (Res.fail (α := α) s k c key).andThen f = s.raise k c key := rfl

/-! ### The ends of a command -/

/-- A command that began and ended normally. -/
theorem begin_finish (s : State) (r : Running) : (s.begin r).finish = s.okEnd := rfl

/-- A command other than BUILD that began and raised. -/
theorem begin_none_raise (s : State) (k : Kind) (c : Cause) (key : Option Nat) :
    (s.begin .none).raise k c key = { s.errEnd k c key with errinfo := 0 } := rfl

/-- A raise while DECODE runs. -/
theorem raise_decode (s : State) (k : Kind) (c : Cause) (key : Option Nat) (h : s.running = .decode) :
    s.raise k c key = s.errEnd k c key := by
  simp [State.raise, State.errEnd, h]

/-- A raise while BUILD runs. -/
theorem raise_build (s : State) (k : Kind) (c : Cause) (key : Option Nat) (h : s.running = .build) :
    s.raise k c key = { s.errEnd k c key with txlen := 0 } := by
  simp [State.raise, State.errEnd, h]

/-- A scalar result and nothing else. -/
theorem begin_scalarDone (s : State) (rv : Word) : scalarDone rv (s.begin .none) = { s.okEnd with resval := rv } := rfl

/-! ### The command frame (R300) -/

/-- The checks pass: the command's own rule runs. -/
theorem frame_pass {nb ko bo : Bool} {s : State} (rule : State → State) (hb : nb = true → s.bound = true)
    (hk : ko = true) (ha : bo = true) : frame nb ko bo s rule = rule (s.begin .none) := by
  cases nb <;> simp_all [frame, frameCheck]

/-- Check 2. -/
theorem frame_unbound {ko bo : Bool} {s : State} (rule : State → State) (hb : s.bound = false) :
    frame true ko bo s rule = { s.errEnd .specError .seUnbound none with errinfo := 0 } := by
  simp [frame, frameCheck, hb, begin_none_raise]

/-- Check 3. -/
theorem frame_key {nb bo : Bool} {s : State} (rule : State → State) (hb : nb = true → s.bound = true) :
    frame nb false bo s rule = { s.errEnd .reject .rjKeyRange none with errinfo := 0 } := by
  cases nb <;> simp_all [frame, frameCheck, begin_none_raise]

/-- Check 4. -/
theorem frame_bit {nb : Bool} {s : State} (rule : State → State) (hb : nb = true → s.bound = true) :
    frame nb true false s rule = { s.errEnd .reject .rjBitValue none with errinfo := 0 } := by
  cases nb <;> simp_all [frame, frameCheck, begin_none_raise]

theorem presKeyOk_iff (key : BitVec 8) : presKeyOk key = true ↔ 1 ≤ key.toNat ∧ key.toNat ≤ 128 := by
  rw [presKeyOk, keyNat]
  simp

theorem fieldKeyOk_iff (key : BitVec 8) : fieldKeyOk key = true ↔ 2 ≤ key.toNat ∧ key.toNat ≤ 128 := by
  rw [fieldKeyOk, keyNat]
  simp

theorem catKeyOk_iff (key : BitVec 8) : catKeyOk key = true ↔ key.toNat ≤ 128 := by
  rw [catKeyOk, keyNat]
  simp

theorem bitArgOk_iff (arg : BitVec 16) : bitArgOk arg = true ↔ arg.toNat ≤ 1 := by simp [bitArgOk]

/-- The bit of a legal bit operand. -/
theorem argBit_eq {arg : BitVec 16} (h : arg.toNat ≤ 1) : argBit arg = decide (arg.toNat = 1) := by
  have h2 : arg = 0 ∨ arg = 1 := by
    rcases Nat.le_one_iff_eq_zero_or_eq_one.1 h with h | h
    · exact .inl (BitVec.eq_of_toNat_eq (by simpa using h))
    · exact .inr (BitVec.eq_of_toNat_eq (by simpa using h))
  rcases h2 with rfl | rfl <;> decide

/-! ### The access primitives (R66 to R69) -/

theorem take_ok {n k : Nat} {s : State} (h : s.cursor + n ≤ s.rxlen) :
    take n k s = .val (memReadRange s.rxbuf s.cursor n) { s with cursor := s.cursor + n } := by
  simp [take, Nat.not_lt.2 h]

theorem take_short {n k : Nat} {s : State} (h : s.rxlen < s.cursor + n) :
    take n k s = .fail s .parseError .peUnderrun (some k) := by simp [take, h]

theorem emit_ok {v : Bytes} {s : State} (h : s.txlen + v.length ≤ s.params.bufCap) :
    emit v s = .val () { s with txbuf := memWriteRange s.txbuf s.txlen v, txlen := s.txlen + v.length } := by
  simp [emit, Nat.not_lt.2 h]

theorem emit_full {v : Bytes} {s : State} (h : s.params.bufCap < s.txlen + v.length) :
    emit v s = .fail s .buildError .beTxOvf none := by simp [emit, h]

@[simp] theorem operand_length (s : State) : s.operand.length = s.oplen := by simp [State.operand]

@[simp] theorem operand_begin (s : State) (r : Running) : (s.begin r).operand = s.operand := rfl

/-- An outcome that is known whole, the latches among it. -/
theorem endsAs_of_eq {o : Out} {u : State} (h : o = .next u) : EndsAs o u := ⟨u, h, rfl⟩

/-- A byte-string result that fits. -/
theorem answers_resultDone {s : State} {v : Bytes} (rv : Word) (h : v.length ≤ s.params.bufCap) :
    Answers s (.next (resultDone v rv (s.begin .none))) v rv := by
  have e : resultDone v rv (s.begin .none) = { s.okEnd with
      resbuf := memWriteRange s.resbuf 0 v, reslen := v.length, resval := rv } := by
    simp [resultDone, putResult, Nat.not_lt.2 h]
    rfl
  exact ⟨_, ⟨_, congrArg _ e, rfl⟩, stored_memWriteRange s.resbuf 0 v⟩

/-- A byte-string result that does not fit. -/
theorem resultDone_over {s : State} {v : Bytes} (rv : Word) (h : s.params.bufCap < v.length) :
    resultDone v rv (s.begin .none) = { s.errEnd .reject .rjOperand none with errinfo := 0 } := by
  simp [resultDone, putResult, h, begin_none_raise]

/-- An emission leaves the bytes behind TXLEN and no other byte. -/
theorem emitted_emit {v : Bytes} {s : State} {t : State} (h : emit v s = .val () t) : Emitted s t v := by
  unfold emit at h
  split at h
  · simp [Res.fail] at h
  · cases h
    exact ⟨rfl, stored_memWriteRange _ _ _⟩

/-! ### The catalog (R150) -/

theorem catLookup_entry {k : Nat} {s : State} (h : descV (s.catWord k) = true) :
    catLookup k s = .val (fieldSpec (s.catWord k) (catRomEntry s.catrom s.catsel k).desc) s := by
  simp [catLookup, h]

theorem catLookup_none {k : Nat} {s : State} (h : descV (s.catWord k) = false) :
    catLookup k s = .fail s .specError .seNoEntry (some k) := by simp [catLookup, h]

@[simp] theorem catWord_begin (s : State) (r : Running) (k : Nat) : (s.begin r).catWord k = s.catWord k := rfl

/-! ### Presence bits -/

/-- A presence bit read after a write. -/
theorem presBit_presSet (p : BitVec 128) (i j : Nat) (b : Bool) (hi : 1 ≤ i ∧ i ≤ 128) :
    presBit (presSet p i b) j = if j = i then b else presBit p j := by
  unfold presBit presSet presMask
  rw [if_pos hi]
  by_cases hj : 1 ≤ j ∧ j ≤ 128
  · by_cases h : j = i
    · subst h
      have : 128 - j < 128 := by omega
      cases b <;> simp [hj.1, hj.2, this]
    · have h1 : 128 - i ≠ 128 - j := by omega
      have h2 : 128 - j < 128 := by omega
      cases b <;> simp [hj.1, hj.2, h, h2, Ne.symm h1]
  · have h : ¬j = i := by omega
    have h2 : (decide (1 ≤ j) && decide (j ≤ 128)) = false := by
      rw [← Bool.decide_and]
      simpa using hj
    simp [h, h2]

/-! ### From field to field (R31) -/

/-- What the walk to the next field does: only PHASE, FIDX and the model's stage change, as `GoesOn` says. -/
theorem nextField_spec (s : State) (f : Nat) :
    s.nextField f = { s with phase := (s.nextField f).phase, fidx := (s.nextField f).fidx, stage := none } ∧
      GoesOn s f (s.nextField f) := by
  unfold State.nextField
  cases h : nextPresent s.pres f with
  | none =>
    refine ⟨rfl, .inr ⟨fun g h1 h2 => ?_, rfl, rfl⟩⟩
    have := List.find?_eq_none.1 h g (List.mem_range'_1.2 (by omega))
    simpa using this
  | some g =>
    obtain ⟨h1, h2⟩ := List.find?_range'_eq_some.1 h
    refine ⟨rfl, .inl ⟨g, by have := h2.1; simp at this; omega, ?_, by simpa using h1, ?_, rfl, rfl⟩⟩
    · have := h2.1
      simp at this
      omega
    · intro j hj1 hj2
      simpa using h2.2 j (by omega) hj2

/-- What storing the value of a field does. -/
theorem storeField_spec (s : State) (n : Nat) (v : Value) :
    FieldStored s ({ s with cursor := s.cursor + n }.storeField v) n v := by
  have h := nextField_spec ({ s with cursor := s.cursor + n }.setVal s.fidx v) s.fidx
  refine ⟨?_, ?_, ?_, h.2⟩
  · unfold State.storeField
    rw [h.1]
    rfl
  · unfold State.storeField
    rw [h.1]
    exact (State.val_setVal s s.fidx s.fidx v).trans (if_pos rfl)
  · intro g hg
    unfold State.storeField
    rw [h.1]
    exact (State.val_setVal s s.fidx g v).trans (if_neg hg)

end Sys2Proof.Machine
end

