-- ==== Sys2Proof/Laws/Paths.lean ====
section
/-! SUPPORT. The shared operations of the two field paths: what each does when it succeeds and how it ends the command
when it does not; and which of them the micro-operation of a stage is. -/

namespace Sys2Proof.Machine

/-! ### The access primitives, both ways -/

theorem take_cases (n k : Nat) (s : State) :
    take n k s = .val (memReadRange s.rxbuf s.cursor n) { s with cursor := s.cursor + n } ∨
      take n k s = .fail s .parseError .peUnderrun (some k) := by
  unfold take
  split
  · exact .inr rfl
  · exact .inl rfl

theorem emit_cases (v : Bytes) (s : State) :
    (s.txlen + v.length ≤ s.params.bufCap ∧
        emit v s = .val () { s with txbuf := memWriteRange s.txbuf s.txlen v, txlen := s.txlen + v.length }) ∨
      emit v s = .fail s .buildError .beTxOvf none := by
  unfold emit
  split
  · exact .inr rfl
  · exact .inl ⟨by omega, rfl⟩

/-! ### Length stage (R224 to R229) -/

theorem lengthKnown_over {d : Word} {n : Nat} {s : State} (h : descEffmax d < n) :
    lengthKnown d n s = s.raise .parseError .peLenTooLarge (some s.fidx) := by simp [lengthKnown, h]

theorem lengthKnown_value {d : Word} {n : Nat} {s : State} (h : n ≤ descEffmax d) (h0 : n ≠ 0) :
    lengthKnown d n s = { s with len := n, stage := some .dval } := by simp [lengthKnown, Nat.not_lt.2 h, h0]

theorem lengthKnown_zero {d : Word} {s : State} : lengthKnown d 0 s = s.storeField .absent := by simp [lengthKnown]

/-! ### Format stage (R264 to R267, R272, R273) -/

theorem fixedFormat_value {d : Word} {pad : Bytes → Bytes} {s : State} (h : s.val s.fidx ≠ .absent) :
    fixedFormat d pad s = fixedReady d (pad (str (s.val s.fidx))) s := by
  unfold fixedFormat
  split
  · next h' => exact absurd h' h
  · rfl

theorem fixedFormat_absent {d : Word} {pad : Bytes → Bytes} {s : State} (h : s.val s.fidx = .absent) :
    fixedFormat d pad s = s.raise .buildError .beNoValue (some s.fidx) := by simp [fixedFormat, h]

/-! ### Prefix and emit stages (R274 to R282) -/

theorem emitPrefix_ok {v : Bytes} {s : State} (h : s.txlen + v.length ≤ s.params.bufCap) :
    emitPrefix v s =
      { s with
        txbuf := memWriteRange s.txbuf s.txlen v, txlen := s.txlen + v.length, stage := some .bemit } := by
  simp [emitPrefix, emit_ok h]

theorem emitPrefix_full {v : Bytes} {s : State} (h : s.params.bufCap < s.txlen + v.length) :
    emitPrefix v s = s.raise .buildError .beTxOvf none := by simp [emitPrefix, emit_full h]

theorem emitValue_ok {v : Bytes} {s : State} (h : s.txlen + v.length ≤ s.params.bufCap) :
    emitValue v s =
      { s with txbuf := memWriteRange s.txbuf s.txlen v, txlen := s.txlen + v.length }.nextField s.fidx := by
  simp [emitValue, emit_ok h]

theorem emitValue_full {v : Bytes} {s : State} (h : s.params.bufCap < s.txlen + v.length) :
    emitValue v s = s.raise .buildError .beTxOvf none := by simp [emitValue, emit_full h]

/-! ### Which operation a stage runs (R105) -/

theorem microOp_next {i : Instr} {s : State} {o : Out} (h : microOp i s = some o) : ∃ t, o = .next t := by
  cases i <;> simp only [microOp, Option.some.injEq, reduceCtorEq] at h <;> subst h <;> exact ⟨_, rfl⟩

/-- The length stage is one of four operations. -/
theorem microOp_dlen {d : Word} {s : State} {i : Instr} (h : decodeMicro .dlen d = .ok i) :
    ∃ w, microOp i s = some (.next (lengthFixed d s)) ∨ microOp i s = some (.next (lengthAscii w d s)) ∨
      microOp i s = some (.next (lengthBcd w d s)) ∨ microOp i s = some (.next (lengthBin w d s)) := by
  unfold decodeMicro at h
  split at h
  · cases h
  · simp only at h
    split at h <;> cases h
    · exact ⟨0, .inl rfl⟩
    · exact ⟨1, .inr (.inl rfl)⟩
    · exact ⟨2, .inr (.inl rfl)⟩
    · exact ⟨3, .inr (.inl rfl)⟩
    · exact ⟨1, .inr (.inr (.inl rfl))⟩
    · exact ⟨2, .inr (.inr (.inl rfl))⟩
    · exact ⟨3, .inr (.inr (.inl rfl))⟩
    · exact ⟨1, .inr (.inr (.inr rfl))⟩
    · exact ⟨2, .inr (.inr (.inr rfl))⟩
    · exact ⟨3, .inr (.inr (.inr rfl))⟩

/-- The value stage is one of five operations. -/
theorem microOp_dval {d : Word} {s : State} {i : Instr} (h : decodeMicro .dval d = .ok i) :
    microOp i s = some (.next (valueAsciiNumber s)) ∨ microOp i s = some (.next (valueAsciiText s)) ∨
      microOp i s = some (.next (valueBcdNumber s)) ∨ microOp i s = some (.next (valueTrack s)) ∨
      microOp i s = some (.next (valueBin s)) := by
  unfold decodeMicro at h
  split at h
  · cases h
  · simp only at h
    split at h <;> cases h <;>
      first
      | exact .inl rfl
      | exact .inr (.inl rfl)
      | exact .inr (.inr (.inl rfl))
      | exact .inr (.inr (.inr (.inl rfl)))
      | exact .inr (.inr (.inr (.inr rfl)))

/-- The format stage is a FIXED format, or the variable one under a discipline that is not FIXED. -/
theorem microOp_bfmt {d : Word} {s : State} {i : Instr} (h : decodeMicro .bfmt d = .ok i) :
    (∃ pad, microOp i s = some (.next (fixedFormat d pad s))) ∨
      (microOp i s = some (.next (formatVar d s)) ∧ descLdisc d ≠ 0) := by
  have hd : descLdisc d = 0 → discOfCode (descLdisc d) = .fixed := by
    intro h
    rw [h]
    rfl
  unfold decodeMicro at h
  split at h
  · cases h
  · simp only at h
    split at h <;> cases h <;>
      first
      | (refine .inr ⟨rfl, fun h0 => ?_⟩
         simp_all)
      | exact .inl ⟨_, rfl⟩

/-- The prefix stage is one of three operations. -/
theorem microOp_bpfx {d : Word} {s : State} {i : Instr} (h : decodeMicro .bpfx d = .ok i) :
    ∃ w, microOp i s = some (.next (prefixAscii w s)) ∨ microOp i s = some (.next (prefixBcd w s)) ∨
      microOp i s = some (.next (prefixBin w s)) := by
  unfold decodeMicro at h
  split at h
  · cases h
  · simp only at h
    split at h <;> cases h
    · exact ⟨1, .inl rfl⟩
    · exact ⟨2, .inl rfl⟩
    · exact ⟨3, .inl rfl⟩
    · exact ⟨1, .inr (.inl rfl)⟩
    · exact ⟨2, .inr (.inl rfl)⟩
    · exact ⟨3, .inr (.inl rfl)⟩
    · exact ⟨1, .inr (.inr rfl)⟩
    · exact ⟨2, .inr (.inr rfl)⟩
    · exact ⟨3, .inr (.inr rfl)⟩

/-- The emit stage emits the text as it stands, or a packed one. -/
theorem microOp_bemit {d : Word} {s : State} {i : Instr} (h : decodeMicro .bemit d = .ok i) :
    microOp i s = some (.next (emitValue s.txt s)) ∨ ∃ r, microOp i s = some (.next (emitPacked r s)) := by
  unfold decodeMicro at h
  split at h
  · cases h
  · simp only at h
    split at h <;> cases h <;>
      first
      | exact .inl rfl
      | exact .inr ⟨_, rfl⟩

/-! ### The sequencer only ever goes on -/

theorem fieldStage_next (st : DStage) (s : State) : ∃ t, fieldStage st s = .next t := by
  unfold fieldStage
  split
  · next i _ =>
    cases h : microOp i s with
    | none => exact ⟨_, rfl⟩
    | some o => exact microOp_next h
  · exact ⟨_, rfl⟩

theorem seqStep_next (s : State) : ∃ t, seqStep s = .next t := by
  unfold seqStep
  split <;> try exact ⟨_, rfl⟩
  split
  · exact ⟨_, rfl⟩
  · exact fieldStage_next _ _

theorem seqRun_next (n : Nat) (s : State) : ∃ t, seqRun n s = .next t := by
  induction n generalizing s with
  | zero => exact ⟨_, rfl⟩
  | succ n ih =>
    obtain ⟨t, ht⟩ := seqStep_next s
    rw [seqRun, ht]
    simp only
    split
    · exact ih t
    · exact ⟨_, rfl⟩

end Sys2Proof.Machine
end

