-- ==== Sys2Proof/Laws/Sequencer.lean ====
section
/-! SUPPORT. What one step of the running sequencer can do, said once (`seqStep_spec`): it ends the command, or it goes
on with a smaller rank; either way everything but the message, the cursor, the transmit buffer, ERRINFO and the model's
latches is as it was. -/

namespace Sys2Proof.Machine

/-! ### Frames -/

/-- What no step of the sequencer changes. -/
structure SeqKeeps (s t : State) : Prop where
  strict : t.strict = s.strict
  catsel : t.catsel = s.catsel
  bound : t.bound = s.bound
  rxlen : t.rxlen = s.rxlen
  oplen : t.oplen = s.oplen
  rxbuf : t.rxbuf = s.rxbuf
  opbuf : t.opbuf = s.opbuf
  resbuf : t.resbuf = s.resbuf
  catrom : t.catrom = s.catrom
  params : t.params = s.params
  host : t.host = s.host
  hostData : t.hostData = s.hostData
  freeCtr : t.freeCtr = s.freeCtr

/-- The command goes on: STATUS and the results are as they were, too. -/
structure SeqGoes (s t : State) : Prop extends SeqKeeps s t where
  busy : t.busy = s.busy
  running : t.running = s.running
  kind : t.kind = s.kind
  cause : t.cause = s.cause
  ekey : t.ekey = s.ekey
  reslen : t.reslen = s.reslen
  resval : t.resval = s.resval

/-- The command has ended: the sequencer is idle and its latches are empty. -/
structure SeqEnds (s t : State) : Prop extends SeqKeeps s t where
  busy : t.busy = false
  phase : t.phase = .idle
  running : t.running = .none
  stage : t.stage = none
  desc : t.desc = 0
  len : t.len = 0
  txt : t.txt = []
  reslen : t.reslen = 0

theorem SeqKeeps.trans {s t u : State} (h : SeqKeeps s t) (h' : SeqKeeps t u) : SeqKeeps s u where
  strict := h'.strict.trans h.strict
  catsel := h'.catsel.trans h.catsel
  bound := h'.bound.trans h.bound
  rxlen := h'.rxlen.trans h.rxlen
  oplen := h'.oplen.trans h.oplen
  rxbuf := h'.rxbuf.trans h.rxbuf
  opbuf := h'.opbuf.trans h.opbuf
  resbuf := h'.resbuf.trans h.resbuf
  catrom := h'.catrom.trans h.catrom
  params := h'.params.trans h.params
  host := h'.host.trans h.host
  hostData := h'.hostData.trans h.hostData
  freeCtr := h'.freeCtr.trans h.freeCtr

/-- Any change of the message, the cursor, the transmit buffer, ERRINFO and the latches. -/
theorem SeqGoes.of_change (s : State) (mti : Mti) (mtiValid : Bool) (pres : BitVec 128) (vals : List (Nat × Value))
    (phase : Phase) (fidx cursor : Nat) (errinfo : BitVec 32) (txbuf : Memory) (txlen : Nat) (stage : Option DStage)
    (desc : BitVec 32) (len : Nat) (txt : Bytes) :
    SeqGoes s
      { s with
        mti := mti, mtiValid := mtiValid, pres := pres, vals := vals, phase := phase, fidx := fidx, cursor := cursor
        errinfo := errinfo, txbuf := txbuf, txlen := txlen, stage := stage, desc := desc, len := len, txt := txt } :=
  ⟨⟨rfl, rfl, rfl, rfl, rfl, rfl, rfl, rfl, rfl, rfl, rfl, rfl, rfl⟩, rfl, rfl, rfl, rfl, rfl, rfl, rfl⟩

theorem SeqGoes.refl (s : State) : SeqGoes s s := SeqGoes.of_change s _ _ _ _ _ _ _ _ _ _ _ _ _ _

theorem SeqGoes.trans {s t u : State} (h : SeqGoes s t) (h' : SeqGoes t u) : SeqGoes s u :=
  ⟨h.toSeqKeeps.trans h'.toSeqKeeps, h'.busy.trans h.busy, h'.running.trans h.running, h'.kind.trans h.kind,
    h'.cause.trans h.cause, h'.ekey.trans h.ekey, h'.reslen.trans h.reslen, h'.resval.trans h.resval⟩

theorem SeqGoes.ends {s t u : State} (h : SeqGoes s t) (h' : SeqEnds t u) : SeqEnds s u :=
  ⟨h.toSeqKeeps.trans h'.toSeqKeeps, h'.busy, h'.phase, h'.running, h'.stage, h'.desc, h'.len, h'.txt, h'.reslen⟩

theorem seqEnds_raise (s : State) (k : Kind) (c : Cause) (key : Option Nat) : SeqEnds s (s.raise k c key) :=
  ⟨⟨rfl, rfl, rfl, rfl, rfl, rfl, rfl, rfl, rfl, rfl, rfl, rfl, rfl⟩, rfl, rfl, rfl, rfl, rfl, rfl, rfl, rfl⟩

theorem seqEnds_finish (s : State) (h : s.reslen = 0) : SeqEnds s s.finish :=
  ⟨⟨rfl, rfl, rfl, rfl, rfl, rfl, rfl, rfl, rfl, rfl, rfl, rfl, rfl⟩, rfl, rfl, rfl, rfl, rfl, rfl, rfl, h⟩

theorem seqGoes_nextField (s : State) (f : Nat) : SeqGoes s (s.nextField f) := by
  rw [(nextField_spec s f).1]
  exact SeqGoes.of_change s _ _ _ _ _ _ _ _ _ _ _ _ _ _

/-! ### The rank: how many steps are left at most -/

/-- Stages left in the field. -/
def stageRank : Option DStage → Nat
  | none => 4
  | some .dlen => 3
  | some .bfmt => 3
  | some .bpfx => 2
  | some .dval => 1
  | some .bemit => 1

/-- Steps left in the command. -/
def seqRank (s : State) : Nat :=
  match s.phase with
  | .idle => 1
  | .start => 512
  | .mti => 511
  | .bitmap => 510
  | .field => 4 * (128 - s.fidx) + stageRank s.stage + 1
  | .done => 1

theorem seqRank_pos (s : State) : 1 ≤ seqRank s := by
  unfold seqRank
  split <;> omega

theorem seqRank_nextField (s : State) (f : Nat) : seqRank (s.nextField f) ≤ 4 * (128 - f) + 1 := by
  have hs : (s.nextField f).stage = none := by rw [(nextField_spec s f).1]
  rcases (nextField_spec s f).2 with ⟨g, h1, h2, _, _, h3, h4⟩ | ⟨_, h, _⟩
  · simp [seqRank, h3, h4, hs, stageRank]
    omega
  · simp [seqRank, h]

/-- The command ends, or goes on with a smaller rank. -/
def SeqMoves (s t : State) : Prop := SeqEnds s t ∨ (SeqGoes s t ∧ seqRank t < seqRank s)

theorem SeqMoves.raise {s : State} {k : Kind} {c : Cause} {key : Option Nat} : SeqMoves s (s.raise k c key) :=
  .inl (seqEnds_raise _ _ _ _)

theorem SeqMoves.of {s s' t : State} (h : SeqMoves s' t) (hf : SeqGoes s s') (hr : seqRank s' = seqRank s) :
    SeqMoves s t := by
  rcases h with h | h
  · exact .inl (hf.ends h)
  · exact .inr ⟨hf.trans h.1, hr ▸ h.2⟩

/-! ### Decode path -/

theorem seqMoves_store {v : Value} {s : State} (hp : s.phase = .field) (_hs : s.stage ≠ none) :
    SeqMoves s (s.storeField v) := by
  refine .inr ⟨(SeqGoes.of_change s _ _ _ _ _ _ _ _ _ _ _ _ _ _).trans (seqGoes_nextField _ _), ?_⟩
  have h1 := seqRank_nextField (s.setVal s.fidx v) s.fidx
  have h2 : 1 ≤ stageRank s.stage := by rcases s.stage with _ | _ | _ <;> simp [stageRank]
  unfold State.storeField
  simp [seqRank, hp] at h1 ⊢
  omega

theorem seqMoves_take {n k : Nat} {s : State} {g : Bytes → State → State}
    (h : ∀ bs, SeqMoves { s with cursor := s.cursor + n } (g bs { s with cursor := s.cursor + n })) :
    SeqMoves s ((take n k s).andThen g) := by
  rcases take_cases n k s with e | e <;> rw [e]
  · exact (h _).of (SeqGoes.of_change s _ _ _ _ _ _ _ _ _ _ _ _ _ _) rfl
  · exact .raise

theorem seqMoves_lengthKnown {d : Word} {n : Nat} {s : State} (hp : s.phase = .field) (hs : s.stage = some .dlen) :
    SeqMoves s (lengthKnown d n s) := by
  unfold lengthKnown
  split
  · exact .raise
  · split
    · exact seqMoves_store hp (by simp [hs])
    · exact .inr ⟨SeqGoes.of_change s _ _ _ _ _ _ _ _ _ _ _ _ _ _, by simp [seqRank, hp, hs, stageRank]⟩

theorem seqMoves_lengthDigits {d : Word} {t : Bytes} {s : State} (hp : s.phase = .field) (hs : s.stage = some .dlen) :
    SeqMoves s (lengthDigits d t s) := by
  unfold lengthDigits
  split
  · exact seqMoves_lengthKnown hp hs
  · exact .raise

theorem seqMoves_dlen {d : Word} {s o : State} {i : Instr} (hp : s.phase = .field) (hs : s.stage = some .dlen)
    (h : decodeMicro .dlen d = .ok i) (ho : microOp i s = some (.next o)) : SeqMoves s o := by
  obtain ⟨w, h | h | h | h⟩ := microOp_dlen (s := s) h <;> rw [ho] at h <;>
    simp only [Option.some.injEq, Host.Outcome.next.injEq] at h <;> subst h
  · exact seqMoves_lengthKnown hp hs
  · exact seqMoves_take fun _ => seqMoves_lengthDigits (s := { s with cursor := _ }) hp hs
  · exact seqMoves_take fun _ => seqMoves_lengthDigits (s := { s with cursor := _ }) hp hs
  · unfold lengthBin
    split
    · exact .raise
    · exact seqMoves_take fun _ => seqMoves_lengthKnown (s := { s with cursor := _ }) hp hs

theorem seqMoves_valueDigits {t : Bytes} {s : State} (hp : s.phase = .field) (hs : s.stage ≠ none) :
    SeqMoves s (valueDigits t s) := by
  unfold valueDigits
  split
  · exact seqMoves_store hp hs
  · exact .raise

theorem seqMoves_dval {d : Word} {s o : State} {i : Instr} (hp : s.phase = .field) (hs : s.stage = some .dval)
    (h : decodeMicro .dval d = .ok i) (ho : microOp i s = some (.next o)) : SeqMoves s o := by
  have hs' : s.stage ≠ none := by simp [hs]
  rcases microOp_dval (s := s) h with h | h | h | h | h <;> rw [ho] at h <;>
    simp only [Option.some.injEq, Host.Outcome.next.injEq] at h <;> subst h
  · exact seqMoves_take fun _ => seqMoves_valueDigits (s := { s with cursor := _ }) hp hs'
  · exact seqMoves_take fun _ => seqMoves_store (s := { s with cursor := _ }) hp hs'
  · exact seqMoves_take fun _ => seqMoves_valueDigits (s := { s with cursor := _ }) hp hs'
  · exact seqMoves_take fun _ => seqMoves_store (s := { s with cursor := _ }) hp hs'
  · exact seqMoves_take fun _ => seqMoves_store (s := { s with cursor := _ }) hp hs'

/-! ### Build path -/

theorem seqMoves_bfmt {d : Word} {s o : State} {i : Instr} (hp : s.phase = .field) (hs : s.stage = some .bfmt)
    (h : decodeMicro .bfmt d = .ok i) (ho : microOp i s = some (.next o)) : SeqMoves s o := by
  rcases microOp_bfmt (s := s) h with ⟨pad, h⟩ | ⟨h, _⟩ <;> rw [ho] at h <;>
    simp only [Option.some.injEq, Host.Outcome.next.injEq] at h <;> subst h
  · unfold fixedFormat
    split
    · exact .raise
    · unfold fixedReady
      split
      · exact .raise
      · split
        · exact .raise
        · exact .inr ⟨SeqGoes.of_change s _ _ _ _ _ _ _ _ _ _ _ _ _ _, by simp [seqRank, hp, hs, stageRank]⟩
  · unfold formatVar varReady
    split
    · exact .raise
    · split
      · exact .raise
      · exact .inr ⟨SeqGoes.of_change s _ _ _ _ _ _ _ _ _ _ _ _ _ _, by simp [seqRank, hp, hs, stageRank]⟩

theorem seqMoves_emitPrefix {v : Bytes} {s : State} (hp : s.phase = .field) (hs : s.stage = some .bpfx) :
    SeqMoves s (emitPrefix v s) := by
  unfold emitPrefix
  rcases emit_cases v s with ⟨_, h⟩ | h <;> rw [h]
  · exact .inr ⟨SeqGoes.of_change s _ _ _ _ _ _ _ _ _ _ _ _ _ _, by simp [seqRank, hp, hs, stageRank]⟩
  · exact .raise

theorem seqMoves_bpfx {d : Word} {s o : State} {i : Instr} (hp : s.phase = .field) (hs : s.stage = some .bpfx)
    (h : decodeMicro .bpfx d = .ok i) (ho : microOp i s = some (.next o)) : SeqMoves s o := by
  obtain ⟨w, h | h | h⟩ := microOp_bpfx (s := s) h <;> rw [ho] at h <;>
    simp only [Option.some.injEq, Host.Outcome.next.injEq] at h <;> subst h
  · unfold prefixAscii
    split
    · exact .raise
    · exact seqMoves_emitPrefix hp hs
  · unfold prefixBcd
    split
    · exact .raise
    · split
      · exact seqMoves_emitPrefix hp hs
      · exact .raise
  · unfold prefixBin
    split
    · exact .raise
    · split
      · exact .raise
      · exact seqMoves_emitPrefix hp hs

theorem seqMoves_emitValue {v : Bytes} {s : State} (hp : s.phase = .field) (hs : s.stage = some .bemit) :
    SeqMoves s (emitValue v s) := by
  unfold emitValue
  rcases emit_cases v s with ⟨_, h⟩ | h <;> rw [h]
  · refine .inr ⟨(SeqGoes.of_change s _ _ _ _ _ _ _ _ _ _ _ _ _ _).trans (seqGoes_nextField _ _), ?_⟩
    have h1 := seqRank_nextField
      { s with txbuf := memWriteRange s.txbuf s.txlen v, txlen := s.txlen + v.length } s.fidx
    simp [seqRank, hp, hs, stageRank] at h1 ⊢
    omega
  · exact .raise

theorem seqMoves_bemit {d : Word} {s o : State} {i : Instr} (hp : s.phase = .field) (hs : s.stage = some .bemit)
    (h : decodeMicro .bemit d = .ok i) (ho : microOp i s = some (.next o)) : SeqMoves s o := by
  rcases microOp_bemit (s := s) h with h | ⟨r, h⟩ <;> rw [ho] at h <;>
    simp only [Option.some.injEq, Host.Outcome.next.injEq] at h <;> subst h
  · exact seqMoves_emitValue hp hs
  · unfold emitPacked
    split
    · exact seqMoves_emitValue hp hs
    · exact .raise

theorem seqMoves_fieldStage {st : DStage} {s o : State} (hp : s.phase = .field) (hs : s.stage = some st)
    (ho : fieldStage st s = .next o) : SeqMoves s o := by
  unfold fieldStage at ho
  split at ho
  · next i hi =>
    cases h : microOp i s with
    | none =>
      rw [h] at ho
      cases ho
      exact .raise
    | some r =>
      rw [h] at ho
      simp only [Option.getD_some] at ho
      subst ho
      cases st
      · exact seqMoves_dlen hp hs hi h
      · exact seqMoves_dval hp hs hi h
      · exact seqMoves_bfmt hp hs hi h
      · exact seqMoves_bpfx hp hs hi h
      · exact seqMoves_bemit hp hs hi h
  · cases ho
    exact .raise

/-! ### The MTI and BITMAP phases -/

/-- A part of a phase goes on, or ends the command. -/
def Res.Moves {α : Type} (s : State) : Res α → Prop
  | .val _ t => SeqGoes s t
  | .stop t => SeqEnds s t

theorem Res.Moves.val {α : Type} {a : α} {s : State} : Res.Moves s (.val a s) := SeqGoes.refl s

theorem Res.Moves.fail {α : Type} {s : State} {k : Kind} {c : Cause} {key : Option Nat} :
    Res.Moves (α := α) s (.fail s k c key) := seqEnds_raise _ _ _ _

theorem Res.Moves.of {α : Type} {s s' : State} {r : Res α} (h : Res.Moves s' r) (hf : SeqGoes s s') :
    Res.Moves s r := by
  cases r with
  | val a t => exact hf.trans h
  | stop t => exact hf.ends h

theorem Res.Moves.bind {α β : Type} {s : State} {r : Res α} {f : α → State → Res β} (h : Res.Moves s r)
    (hf : ∀ a s, Res.Moves s (f a s)) : Res.Moves s (r.bind f) := by
  cases r with
  | val a t => exact (hf a t).of h
  | stop t => exact h

theorem Res.Moves.failInfo {α : Type} {s : State} {n : BitVec 32} {k : Kind} {c : Cause} {key : Option Nat} :
    Res.Moves (α := α) s (.fail { s with errinfo := n } k c key) :=
  Res.Moves.fail.of (SeqGoes.of_change s _ _ _ _ _ _ _ _ _ _ _ _ _ _)

theorem moves_take {n k : Nat} {s : State} : Res.Moves s (take n k s) := by
  unfold take
  split
  · exact .fail
  · exact SeqGoes.of_change s _ _ _ _ _ _ _ _ _ _ _ _ _ _

theorem moves_emit {v : Bytes} {s : State} : Res.Moves s (emit v s) := by
  unfold emit
  split
  · exact .fail
  · exact SeqGoes.of_change s _ _ _ _ _ _ _ _ _ _ _ _ _ _

theorem moves_catLookup {k : Nat} {s : State} : Res.Moves s (catLookup k s) := by
  unfold catLookup
  split
  · exact .val
  · exact .fail

theorem moves_mtiDecode {s : State} : Res.Moves s (mtiDecode s) := by
  unfold mtiDecode mtiRead
  refine .bind (.bind moves_catLookup fun e s => ?_) fun t s => ?_
  · split
    · exact .bind moves_take fun _ _ => .val
    · exact moves_take
    · exact .fail
  · split
    · exact .failInfo
    · exact SeqGoes.of_change s _ _ _ _ _ _ _ _ _ _ _ _ _ _

theorem moves_mtiEmit {s : State} : Res.Moves s (mtiEmit s) := by
  unfold mtiEmit
  refine .bind moves_catLookup fun e s => ?_
  split
  · exact .fail
  split
  · exact .failInfo
  split
  · split
    · exact moves_emit
    · exact .failInfo
  · exact moves_emit
  · exact .fail

theorem moves_readWord {s : State} : Res.Moves s (readWord s) := by
  unfold readWord
  refine .bind moves_catLookup fun e s => ?_
  split
  · exact .bind moves_take fun _ _ => .val
  · refine .bind moves_take fun _ _ => ?_
    split
    · exact .val
    · exact .fail
  · exact .fail

theorem seqGoes_pres (s : State) (p : BitVec 128) : SeqGoes s { s with pres := p } :=
  SeqGoes.of_change s _ _ _ _ _ _ _ _ _ _ _ _ _ _

theorem moves_bitmapDecode {s : State} : Res.Moves s (bitmapDecode s) := by
  unfold bitmapDecode
  refine .bind moves_readWord fun w s => ?_
  split
  · exact .bind (moves_readWord.of (seqGoes_pres s _)) fun _ s => seqGoes_pres s _
  · exact seqGoes_pres s _

theorem moves_writeWord {w : BitmapWord} {s : State} : Res.Moves s (writeWord w s) := by
  unfold writeWord
  refine .bind moves_catLookup fun e s => ?_
  split
  · exact moves_emit
  · exact moves_emit
  · exact .fail

theorem seqGoes_activate (s : State) : SeqGoes s (activate s) := by
  unfold activate
  split
  · exact .refl s
  · exact seqGoes_pres s _

theorem moves_bitmapEncode {s : State} : Res.Moves s (bitmapEncode s) := by
  unfold bitmapEncode
  refine .bind (moves_writeWord.of (seqGoes_activate s)) fun w s => ?_
  split
  · exact moves_writeWord
  · exact .val

theorem seqMoves_res {α : Type} {s : State} {r : Res α} {g : α → State → State} (ht : Res.Moves s r)
    (hv : ∀ a t, r = .val a t → SeqGoes t (g a t) ∧ seqRank (g a t) < seqRank s) : SeqMoves s (r.andThen g) := by
  cases r with
  | val a t => exact .inr ⟨SeqGoes.trans ht (hv a t rfl).1, (hv a t rfl).2⟩
  | stop t => exact .inl ht

/-! ### One step -/

/-- What one step of the sequencer can do. -/
theorem seqStep_spec {s t : State} (h0 : s.reslen = 0) (h : seqStep s = .next t) : SeqMoves s t := by
  unfold seqStep at h
  split at h
  · cases h
    exact .inl (seqEnds_finish s h0)
  · next hp =>
    cases h
    right
    rw [seqRank, seqRank, hp]
    split <;> exact ⟨SeqGoes.of_change s _ _ _ _ _ _ _ _ _ _ _ _ _ _, by simp [buildStart, decodeStart]⟩
  · next hp =>
    cases h
    unfold mtiPhase
    refine seqMoves_res ?_ fun _ t _ => ⟨SeqGoes.of_change t _ _ _ _ _ _ _ _ _ _ _ _ _ _, ?_⟩
    · split
      · exact moves_mtiEmit
      · exact moves_mtiDecode
    · rw [seqRank, seqRank, hp]
      simp
  · next hp =>
    cases h
    unfold bitmapPhase
    refine seqMoves_res ?_ fun _ t _ => ⟨seqGoes_nextField _ _, ?_⟩
    · split
      · exact moves_bitmapEncode
      · exact moves_bitmapDecode
    · have := seqRank_nextField t 1
      rw [show seqRank s = 510 by rw [seqRank, hp]]
      omega
  · next hp =>
    split at h
    · next hs =>
      cases h
      unfold fetchDescriptor
      split
      · refine .inr ⟨SeqGoes.of_change s _ _ _ _ _ _ _ _ _ _ _ _ _ _, ?_⟩
        simp [seqRank, hp, hs]
        split <;> simp [stageRank]
      · exact .raise
    · next st hs => exact seqMoves_fieldStage hp hs h
  · cases h
    exact .inl ⟨⟨rfl, rfl, rfl, rfl, rfl, rfl, rfl, rfl, rfl, rfl, rfl, rfl, rfl⟩, rfl, rfl, rfl, rfl, rfl, rfl, rfl,
      rfl⟩

end Sys2Proof.Machine
end

