-- ==== Sys2Proof/Tests/Slice0.lean ====
section
/-! SUPPORT. The model's own tests. Expected values are the worked examples and the vectors of spec/ (the rule or the
part of spec/95_test_vectors.md is named at each), never the model's own answers. The last part shows, for each statement
of Certificates/Slice0/Obligations.lean that has hypotheses, a concrete state and operands that meet them, with each
clause at a boundary of its range. -/

namespace Sys2Proof.Tests

open Sys2Proof Sys2Proof.Machine

/-! ### Helpers -/

/-- The bytes of an ASCII text. -/
def asc (s : String) : Bytes := s.toList.map fun c => BitVec.ofNat 8 c.toNat

/-- What `f` sees in the next state; `none` at a fault or a refusal. -/
def after {α : Type} (o : Out) (f : State → α) : Option α :=
  match o with
  | .next t => some (f t)
  | .fault _ => none
  | .refused _ => none

theorem next_of_after {α : Type} {o : Out} {f : State → α} {a : α} (h : after o f = some a) :
    ∃ t, o = .next t ∧ f t = a := by
  cases o <;> simp_all [after]

/-- What `f` sees in the state in which a part of a command goes on; `none` where it raised. -/
def got {α : Type} (r : Res Unit) (f : State → α) : Option α :=
  match r with
  | .val _ t => some (f t)
  | .stop _ => none

theorem val_of_got {α : Type} {r : Res Unit} {f : State → α} {a : α} (h : got r f = some a) :
    ∃ t, r = .val () t ∧ f t = a := by
  cases r <;> simp_all [got]

/-- Entries without a description. -/
def entries (l : List (Nat × Word)) : List (Nat × CatEntry) := l.map fun p => (p.1, ⟨p.2, []⟩)

/-- The test catalogs TCAT_A, TCAT_B and TCAT_C of spec/95_test_vectors.md part 1. -/
def rom : CatRom where
  cat0 := (0, ⟨0x8A000004, asc "MTI"⟩) :: entries [(1, 0xBA000008), (2, 0x8B200013)] ++
    (3, ⟨0x8A000006, asc "Processing Code"⟩) :: entries [(4, 0x8A00000C), (11, 0x8A000006), (22, 0x8A000003),
      (35, 0xC3200025), (39, 0x9A000002), (41, 0xB2000008), (48, 0x9BA003E7), (52, 0xBA000008), (55, 0xB3A003E7),
      (60, 0xB2A00009), (70, 0x8A000003), (128, 0xBA000008)]
  cat1 := entries [(0, 0x8C000004), (1, 0xBE000008), (2, 0x8D400013), (3, 0x8C000006), (4, 0x8C00000C),
    (11, 0x8C000006), (22, 0x8C000003), (35, 0xC5400025), (39, 0x9A000002), (41, 0xB2000008), (48, 0xBFC003E7),
    (52, 0xBE000008), (55, 0xBFE003E7), (60, 0xB2C00009), (70, 0x8C000003), (128, 0xBE000008)]
  cat2 := entries [(0, 0x8A000004), (1, 0xBE000008), (2, 0x8F60000A), (3, 0xC4000008), (4, 0xC6A00005),
    (5, 0x8A000000), (6, 0x9AA0000C), (7, 0x8C000005), (8, 0xBB200004), (9, 0xC3400025), (10, 0x82000003),
    (12, 0x8DA003E7), (65, 0xBE000001), (100, 0x8B20000B)]

/-- The faulty catalog TCAT_X2 (key 2 = 0x8B000013) as catalog 0, TCAT_H0 and TCAT_H1 in what the tests use of them as
catalogs 1 and 2. -/
def romX : CatRom where
  cat0 := entries [(0, 0x8A000004), (1, 0xBA000008), (2, 0x8B000013)]
  cat1 := entries [(0, 0x8E000004), (1, 0xBA000008)]
  cat2 := entries [(0, 0x8A000004), (1, 0x8C000008)]

/-- Three catalogs that meet R153 to R156: TCAT_A twice and the words of TCAT_B, with the descriptions of TCAT_A. -/
def romPinned : CatRom where
  cat0 := rom.cat0
  cat1 := rom.cat1.map fun p => (p.1, { p.2 with desc := (sparseGet noCatEntry rom.cat0 p.1).desc })
  cat2 := rom.cat0

/-- Catalogs whose only reclassified entry of maximum 999 is a header. -/
def romHeader999 : CatRom where
  cat0 := entries [(0, 0x8A000004), (1, 0xB3A003E7), (3, 0x8A000006), (39, 0x9A000002)]
  cat1 := entries [(0, 0x8C000004), (1, 0xBFC003E7), (3, 0x8A000006), (39, 0x9A000002)]
  cat2 := entries [(0, 0x8A000004), (1, 0xB3A003E7), (3, 0x8A000006), (39, 0x9A000002)]

/-- The constraints refuse a description and a reserved bit of their own in catalog 2 (R155, R100), and a header as the
reclassified field (R156). -/
theorem test_catRomPinned : catRomPinned romPinned = true ∧
    pinnedShape { romPinned with cat2 := (0, ⟨0x8A000004, []⟩) :: rom.cat0.tail } = false ∧
    pinnedShape { romPinned with cat2 := (0, ⟨0x8A010004, asc "MTI"⟩) :: rom.cat0.tail } = false ∧
    pinnedReserved { romPinned with cat2 := (0, ⟨0x8A010004, asc "MTI"⟩) :: rom.cat0.tail } = false ∧
    (pinnedHeaders romHeader999 && pinnedFields romHeader999 && pinnedShape romHeader999) = true ∧
    pinnedReclassified romHeader999 = false := by decide

/-- A framer that is not bound, with these catalogs. -/
def fresh : State := { State.reset with catrom := rom }

/-- A framer that is bound to a catalog. -/
def bound (c : BitVec 2) : State := { fresh with catsel := c, bound := true }

/-- With these bytes in OPBUF. -/
def withOp (bs : Bytes) (s : State) : State := { s with opbuf := memWriteRange [] 0 bs, oplen := bs.length }

/-- With these bytes in RXBUF. -/
def withRx (bs : Bytes) (s : State) : State := { s with rxbuf := memWriteRange [] 0 bs, rxlen := bs.length }

/-- With one action of the host pending. -/
def atHost (a : HostAction) (s : State) : State := { s with host := [a] }

/-- With another capacity (R5). -/
def withCap (n : Nat) (s : State) : State := { s with params := { s.params with bufCap := n } }

/-- With BIN_LEN_MODE = refuse (R5). -/
def refusing (s : State) : State := { s with params := { s.params with binLenMode := .refuse } }

/-- With SET_LEN_MEASURE = text_chars (R5). -/
def inChars (s : State) : State := { s with params := { s.params with setLenMeasure := .textChars } }

/-- With a valid MTI. -/
def withMti (t : Bytes) (s : State) : State := s.storeMti t

/-- With a present field and its value. -/
def withField (f : Nat) (v : Value) (s : State) : State := (s.setVal f v).setPres f true

/-- A running command in the field `f` of catalog `c`, at a stage, with the length and the text of that stage. -/
def inField (r : Running) (c : BitVec 2) (f : Nat) (st : Option DStage) (n : Nat) (t : Bytes) : State :=
  { bound c with
    busy := true, running := r, phase := .field, fidx := f, stage := st, len := n, txt := t
    desc := if st.isSome then (bound c).catWord f else 0, pres := presSet 0 f true }

/-- A DECODE at the length stage of field 2 of TCAT_A, with these bytes still to be read. -/
def atLength (bs : Bytes) : State := withRx bs (inField .decode 0 2 (some .dlen) 0 [])

/-- A DECODE at the value stage of field 2 of TCAT_A. -/
def atValue (n : Nat) (bs : Bytes) : State := withRx bs (inField .decode 0 2 (some .dval) n [])

/-- A BUILD at the format stage of field 2 of TCAT_A. -/
def atFormat (v : Value) : State := (inField .build 0 2 (some .bfmt) 0 []).setVal 2 v

/-- A BUILD at the prefix stage. -/
def atPrefix (n : Nat) : State := inField .build 0 2 (some .bpfx) n []

/-- A BUILD at the emit stage. -/
def atEmit (t : Bytes) : State := inField .build 0 2 (some .bemit) t.length t

/-- The result in RESBUF. -/
def resText (t : State) : Bytes := memReadRange t.resbuf 0 t.reslen

/-- The message in TXBUF. -/
def txText (t : State) : Bytes := memReadRange t.txbuf 0 t.txlen

/-- How a command ended. -/
def ended (t : State) : Kind × Cause × Option Nat := (t.kind, t.cause, t.ekey)

/-! ### Well-formedness: a term that each check refuses -/

/-- Each row of stage dlen refuses the word of another row of the stage; the last term has `V = 0`. -/
theorem test_wellFormed_dlen : ∀ i ∈ [
    Instr.dlenFixed 0x8aa00009, .dlenAsciiLvar 0x8b200013, .dlenAsciiLlvar 0x8ba003e7, .dlenAsciiLllvar 0x8ac00009,
    .dlenBcdLvar 0x8b400013, .dlenBcdLlvar 0x8bc003e7, .dlenBcdLllvar 0x8ae00009, .dlenBinLvar 0x8b600013,
    .dlenBinLlvar 0x8be003e7, .dlenBinLllvar 0x8a000006, .dlenFixed 0x0a000006],
    i.WellFormed = false := by decide

/-- Each row of stage dval refuses the word of another row of the stage; the last term has `V = 0`. -/
theorem test_wellFormed_dval : ∀ i ∈ [
    Instr.dvalAsciiN 0x82000008, .dvalAsciiTA 0x92000008, .dvalAsciiTS 0x9a000008, .dvalAsciiTAn 0xa2000008,
    .dvalAsciiTAs 0xaa000008, .dvalAsciiTNs 0xb2000008, .dvalAsciiTAns 0xba000008, .dvalAsciiTB 0xc2000008,
    .dvalAsciiTZ 0x8d400025, .dvalBcdN 0xc5400025, .dvalBcdZ 0x8fe003e7, .dvalBinN 0xbfe003e7, .dvalBinB 0xc7e003e7,
    .dvalBinZ 0x8a000008, .dvalAsciiN 0x0a000008],
    i.WellFormed = false := by decide

/-- Each row of stage bfmt refuses the word of another row of the stage; the last term has `V = 0`. -/
theorem test_wellFormed_bfmt : ∀ i ∈ [
    Instr.bfmtFixedN 0x82000008, .bfmtFixedTA 0x92000008, .bfmtFixedTS 0x9a000008, .bfmtFixedTAn 0xa2000008,
    .bfmtFixedTAs 0xaa000008, .bfmtFixedTNs 0xb2000008, .bfmtFixedTAns 0xba000008, .bfmtFixedPB 0xc2000008,
    .bfmtFixedPZ 0xc4c00009, .bfmtVarLvar 0xc5400025, .bfmtVarLlvar 0xc5c00068, .bfmtVarLllvar 0x8a000008,
    .bfmtFixedN 0x0a000008],
    i.WellFormed = false := by decide

/-- Each row of stage bpfx refuses the word of another row of the stage; the last term has `V = 0`. -/
theorem test_wellFormed_bpfx : ∀ i ∈ [
    Instr.bpfxAsciiLvar 0x8b200013, .bpfxAsciiLlvar 0x8ba003e7, .bpfxAsciiLllvar 0x8ac00009, .bpfxBcdLvar 0x8b400013,
    .bpfxBcdLlvar 0x8bc003e7, .bpfxBcdLllvar 0x8ae00009, .bpfxBinLvar 0x8b600013, .bpfxBinLlvar 0x8be003e7,
    .bpfxBinLllvar 0x8aa00009, .bpfxAsciiLvar 0x0aa00009],
    i.WellFormed = false := by decide

/-- Each row of stage bemit refuses the word of another row of the stage; the last term has `V = 0`. -/
theorem test_wellFormed_bemit : ∀ i ∈ [
    Instr.bemitAscii 0x8c000006, .bemitBcd 0x8e000006, .bemitBin 0x8a000006, .bemitAscii 0x0a000006],
    i.WellFormed = false := by decide

/-! ### Decoding: words written out from the encoding -/

/-- The commands (R90, R91, R92); the first three are op, key and arg written out in binary. -/
theorem test_decode_commands : ∀ x ∈ ([
    (0b00000001_00000000_000000_0_1_000000_10, Instr.init 2 true), (0b00010010_01000110_0000000000000001, .setBit 70 1),
    (0b00110000_00000000_0000000000000000, .bcdDecode), (0x02000000, .decode), (0x03000000, .build),
    (0x04000001, .setStrict 1), (0x05000000, .getStrict), (0x10000000, .setMti), (0x11000000, .getMti),
    (0x13010000, .getBit 1), (0x14270000, .setFieldTxt 39), (0x15030000, .setFieldInt 3), (0x16030000, .getField 3),
    (0x20030000, .getDenc 3), (0x21020000, .getLdisc 2), (0x22270000, .getClass 39), (0x23020000, .getLenc 2),
    (0x24340000, .getMaxlen 52), (0x25000000, .getDesc 0), (0x31000000, .bcdEncode), (0x32000000, .bcdToInt),
    (0x33000000, .intToBcd), (0x34000000, .hexEncode), (0x35000000, .hexDecode)] : List (Word × Instr)),
    decodeCommand x.1 = .ok x.2 := by decide

/-- Words that are no instruction (R92, R96, R100). -/
theorem test_decode_refuses : decodeCommand 0x06000000 = .error (.badOpcode 0x06) ∧
    decodeCommand 0x00000000 = .error (.badOpcode 0) ∧ decodeMicro .dlen 0x0A000006 = .error .noEntry ∧
    decodeMicro .bpfx 0x8A000006 = .error (.noRow .bpfx) ∧ decodeMicro .dval 0x9C000002 = .error (.noRow .dval) := by
  decide

/-- Stage dlen: the fields V, CLS, DENC, LDISC, LENC, 20:16 and MAXLEN written out (R100 to R103). -/
theorem test_decode_dlen : ∀ x ∈ ([
    (0b1_0001_01_00_00_00000_0000000000000110, Instr.dlenFixed 0x8a000006),
    (0b1_0001_01_01_01_00000_0000000000001001, .dlenAsciiLvar 0x8aa00009),
    (0b1_0001_01_10_01_00000_0000000000010011, .dlenAsciiLlvar 0x8b200013),
    (0b1_0001_01_11_01_00000_0000001111100111, .dlenAsciiLllvar 0x8ba003e7),
    (0b1_0001_01_01_10_00000_0000000000001001, .dlenBcdLvar 0x8ac00009),
    (0b1_0001_01_10_10_00000_0000000000010011, .dlenBcdLlvar 0x8b400013),
    (0b1_0001_01_11_10_00000_0000001111100111, .dlenBcdLllvar 0x8bc003e7),
    (0b1_0001_01_01_11_00000_0000000000001001, .dlenBinLvar 0x8ae00009),
    (0b1_0001_01_10_11_00000_0000000000010011, .dlenBinLlvar 0x8b600013),
    (0b1_0001_01_11_11_00000_0000001111100111, .dlenBinLllvar 0x8be003e7)] : List (Word × Instr)),
    decodeMicro .dlen x.1 = .ok x.2 := by decide

/-- Stage dval: the fields V, CLS, DENC, LDISC, LENC, 20:16 and MAXLEN written out (R100 to R103). -/
theorem test_decode_dval : ∀ x ∈ ([
    (0b1_0001_01_00_00_00000_0000000000001000, Instr.dvalAsciiN 0x8a000008),
    (0b1_0000_01_00_00_00000_0000000000001000, .dvalAsciiTA 0x82000008),
    (0b1_0010_01_00_00_00000_0000000000001000, .dvalAsciiTS 0x92000008),
    (0b1_0011_01_00_00_00000_0000000000001000, .dvalAsciiTAn 0x9a000008),
    (0b1_0100_01_00_00_00000_0000000000001000, .dvalAsciiTAs 0xa2000008),
    (0b1_0101_01_00_00_00000_0000000000001000, .dvalAsciiTNs 0xaa000008),
    (0b1_0110_01_00_00_00000_0000000000001000, .dvalAsciiTAns 0xb2000008),
    (0b1_0111_01_00_00_00000_0000000000001000, .dvalAsciiTB 0xba000008),
    (0b1_1000_01_00_00_00000_0000000000001000, .dvalAsciiTZ 0xc2000008),
    (0b1_0001_10_10_10_00000_0000000000100101, .dvalBcdN 0x8d400025),
    (0b1_1000_10_10_10_00000_0000000000100101, .dvalBcdZ 0xc5400025),
    (0b1_0001_11_11_11_00000_0000001111100111, .dvalBinN 0x8fe003e7),
    (0b1_0111_11_11_11_00000_0000001111100111, .dvalBinB 0xbfe003e7),
    (0b1_1000_11_11_11_00000_0000001111100111, .dvalBinZ 0xc7e003e7)] : List (Word × Instr)),
    decodeMicro .dval x.1 = .ok x.2 := by decide

/-- Stage bfmt: the fields V, CLS, DENC, LDISC, LENC, 20:16 and MAXLEN written out (R100 to R103). -/
theorem test_decode_bfmt : ∀ x ∈ ([
    (0b1_0001_01_00_00_00000_0000000000001000, Instr.bfmtFixedN 0x8a000008),
    (0b1_0000_01_00_00_00000_0000000000001000, .bfmtFixedTA 0x82000008),
    (0b1_0010_01_00_00_00000_0000000000001000, .bfmtFixedTS 0x92000008),
    (0b1_0011_01_00_00_00000_0000000000001000, .bfmtFixedTAn 0x9a000008),
    (0b1_0100_01_00_00_00000_0000000000001000, .bfmtFixedTAs 0xa2000008),
    (0b1_0101_01_00_00_00000_0000000000001000, .bfmtFixedTNs 0xaa000008),
    (0b1_0110_01_00_00_00000_0000000000001000, .bfmtFixedTAns 0xb2000008),
    (0b1_0111_01_00_00_00000_0000000000001000, .bfmtFixedPB 0xba000008),
    (0b1_1000_01_00_00_00000_0000000000001000, .bfmtFixedPZ 0xc2000008),
    (0b1_1000_10_01_10_00000_0000000000001001, .bfmtVarLvar 0xc4c00009),
    (0b1_1000_10_10_10_00000_0000000000100101, .bfmtVarLlvar 0xc5400025),
    (0b1_1000_10_11_10_00000_0000000001101000, .bfmtVarLllvar 0xc5c00068)] : List (Word × Instr)),
    decodeMicro .bfmt x.1 = .ok x.2 := by decide

/-- Stage bpfx: the fields V, CLS, DENC, LDISC, LENC, 20:16 and MAXLEN written out (R100 to R103). -/
theorem test_decode_bpfx : ∀ x ∈ ([
    (0b1_0001_01_01_01_00000_0000000000001001, Instr.bpfxAsciiLvar 0x8aa00009),
    (0b1_0001_01_10_01_00000_0000000000010011, .bpfxAsciiLlvar 0x8b200013),
    (0b1_0001_01_11_01_00000_0000001111100111, .bpfxAsciiLllvar 0x8ba003e7),
    (0b1_0001_01_01_10_00000_0000000000001001, .bpfxBcdLvar 0x8ac00009),
    (0b1_0001_01_10_10_00000_0000000000010011, .bpfxBcdLlvar 0x8b400013),
    (0b1_0001_01_11_10_00000_0000001111100111, .bpfxBcdLllvar 0x8bc003e7),
    (0b1_0001_01_01_11_00000_0000000000001001, .bpfxBinLvar 0x8ae00009),
    (0b1_0001_01_10_11_00000_0000000000010011, .bpfxBinLlvar 0x8b600013),
    (0b1_0001_01_11_11_00000_0000001111100111, .bpfxBinLllvar 0x8be003e7)] : List (Word × Instr)),
    decodeMicro .bpfx x.1 = .ok x.2 := by decide

/-- Stage bemit: the fields V, CLS, DENC, LDISC, LENC, 20:16 and MAXLEN written out (R100 to R103). -/
theorem test_decode_bemit : ∀ x ∈ ([
    (0b1_0001_01_00_00_00000_0000000000000110, Instr.bemitAscii 0x8a000006),
    (0b1_0001_10_00_00_00000_0000000000000110, .bemitBcd 0x8c000006),
    (0b1_0001_11_00_00_00000_0000000000000110, .bemitBin 0x8e000006)] : List (Word × Instr)),
    decodeMicro .bemit x.1 = .ok x.2 := by decide

/-! ### Commands -/

/-- R301: `INIT 0, STRICT` on a conforming catalog ends with STATUS 0x00FF0030. -/
theorem test_init : after (exec (.init 0 true) fresh) statusWord = some 0x00FF0030 := by decide

/-- 95_test_vectors.md TCAT_X2: LLVAR with `LENC = 0` at key 2; catalog number 3 (R301). -/
theorem test_init_fails :
    after (exec (.init 0 false) { fresh with catrom := romX }) ended = some (.specError, .seChkLenc, some 2) ∧
      after (exec (.init 3 false) fresh) ended = some (.specError, .seNoCatalog, none) := by decide

/-- The example of R220. -/
theorem test_decode :
    after (exec .decode (withRx (asc "02002000000000000000000000") (bound 0)))
      (fun t => ((mtiBytes t.mti, t.pres), t.vals, t.cursor)) =
        some ((asc "0200", BitVec.twoPow 128 125), [(3, .int 0)], 26) := by decide

/-- 95_test_vectors.md S4: the length prefix is one above the maximum. -/
theorem test_decode_too_large :
    after (exec .decode (withRx (asc "020040000000000000002012345678901234567890") (bound 0)))
      (fun t => (statusWord t, t.cursor)) = some (0x00022A52, 22) := by decide

/-- The example of R260. -/
theorem test_build :
    after (exec .build (withMti (asc "0210") (withField 39 (.text (asc "00")) (bound 0))))
      (fun t => (t.kind, txText t, t.resval)) = some (.ok, asc "0210000000000200000000", 22) := by decide

/-- 95_test_vectors.md S2: a field above 64 activates PRES[1] and the secondary word. -/
theorem test_build_secondary :
    after (exec .build (withMti (asc "0800") (withField 70 (.int 301) (withField 3 (.int 0) (bound 0)))))
      (fun t => (txText t, presBit t.pres 1)) =
        some (asc "0800A0000000000000000400000000000000000000301", true) := by decide

/-- R302, R303. -/
theorem test_strict :
    after (exec (.setStrict 1) (bound 0)) (fun t => t.strict) = some true ∧
      after (exec (.setStrict 2) (bound 0)) ended = some (.reject, .rjBitValue, none) ∧
      after (exec .getStrict (bound 0)) (fun t => t.resval) = some 0 ∧
      after (exec .getStrict { bound 0 with strict := true }) (fun t => t.resval) = some 1 := by decide

/-- The examples of R208 and R304. -/
theorem test_setMti :
    after (exec .setMti (withOp (asc "210") (bound 0))) (fun t => (mtiBytes t.mti, t.mtiValid)) =
        some (asc "0210", true) ∧
      after (exec .setMti (withOp (asc "02100") (bound 0))) ended = some (.reject, .rjMtiLen, some 0) ∧
      after (exec .setMti (withOp (asc "9999") (bound 0))) ended = some (.reject, .mtiFunction, some 0) ∧
      after (exec .setMti (withOp (asc "9999") { bound 0 with strict := true })) ended =
        some (.reject, .mtiStrictOrigin, some 0) := by decide

/-- The example of R305; an unset MTI. -/
theorem test_getMti :
    after (exec .getMti (withMti (asc "0210") (bound 0))) (fun t => (resText t, t.resval)) =
        some (asc "0210", 0x00000210) ∧
      after (exec .getMti (bound 0)) (fun t => (t.kind, t.reslen, t.resval)) = some (.ok, 0, 0) := by decide

/-- R306, R307: SET_BIT 70, 1, the key range, and reading the bit back. -/
theorem test_bits :
    after (exec (.setBit 70 1) (bound 0)) (fun t => (presBit t.pres 70, presBit t.pres 69)) = some (true, false) ∧
      after (exec (.setBit 129 1) (bound 0)) ended = some (.reject, .rjKeyRange, none) ∧
      after (exec (.getBit 1) { bound 0 with pres := BitVec.twoPow 128 127 }) (fun t => t.resval) = some 1 ∧
      after (exec (.getBit 2) { bound 0 with pres := BitVec.twoPow 128 127 }) (fun t => t.resval) = some 0 := by
  decide

/-- The examples of R308 and R309. -/
theorem test_setField :
    after (exec (.setFieldTxt 39) (withOp (asc "00") (bound 0))) (fun t => (t.vals, presBit t.pres 39)) =
        some ([(39, .text (asc "00"))], true) ∧
      after (exec (.setFieldTxt 39) (withOp (asc "000") (bound 0))) ended =
        some (.reject, .rjValueTooLong, some 39) ∧
      after (exec (.setFieldInt 3) (withOp (asc "123") (bound 0))) (fun t => t.vals) = some [(3, .int 123)] ∧
      after (exec (.setFieldInt 3) (withOp (asc "1A") (bound 0))) ended = some (.reject, .rjOperand, some 3) := by
  decide

/-- The example of R310, a text, and an absent value. -/
theorem test_getField :
    after (exec (.getField 3) (withField 3 (.int 0) (bound 0))) (fun t => (t.resval, resText t)) =
        some (0x101, asc "0") ∧
      after (exec (.getField 39) ((bound 0).setVal 39 (.text (asc "00")))) (fun t => (t.resval, resText t)) =
        some (0x002, asc "00") ∧
      after (exec (.getField 128) (bound 0)) (fun t => (t.resval, t.reslen)) = some (0, 0) := by decide

/-- The examples of R170 to R175 on TCAT_A. -/
theorem test_introspection : ∀ x ∈ ([(Instr.getDenc 3, 1), (.getLdisc 2, 2), (.getClass 39, 3), (.getLenc 3, 0),
    (.getLenc 2, 1), (.getMaxlen 52, 8)] : List (Instr × Word)),
    after (exec x.1 (bound 0)) (fun t => (t.kind, t.resval, t.reslen)) = some (.ok, x.2, 0) := by decide

/-- R175, and a key without an entry (R150). -/
theorem test_getDesc :
    after (exec (.getDesc 3) (bound 0)) resText = some (asc "Processing Code") ∧
      after (exec (.getDesc 5) (bound 0)) ended = some (.specError, .seNoEntry, some 5) := by decide

/-- The examples of R140 to R145, on a framer that is not bound. -/
theorem test_codecs : ∀ x ∈ ([(Instr.bcdDecode, [0x12, 0x34], asc "1234", 0), (.bcdEncode, asc "123", [0x01, 0x23], 0),
    (.bcdToInt, [0x01, 0x23], asc "123", 123), (.intToBcd, asc "123", [0x01, 0x23], 0),
    (.hexEncode, [0xAB, 0x01], asc "AB01", 0), (.hexDecode, asc "ab01", [0xAB, 0x01], 0)] :
      List (Instr × Bytes × Bytes × Word)),
    after (exec x.1 (withOp x.2.1 fresh)) (fun t => (t.kind, resText t, t.resval)) = some (.ok, x.2.2.1, x.2.2.2) := by
  decide

/-- R140 to R145: an odd length, a character that is no digit, a nibble above 9, an empty operand. -/
theorem test_codecs_reject : ∀ x ∈ ([(Instr.hexDecode, asc "ABC"), (.bcdEncode, asc "1G"), (.bcdToInt, [0x1A]),
    (.bcdToInt, []), (.intToBcd, [])] : List (Instr × Bytes)),
    after (exec x.1 (withOp x.2 fresh)) ended = some (.reject, .rjOperand, none) := by decide

/-! ### Field micro-operations -/

/-- The examples of R224 to R227: the length, the cursor, the next stage. -/
theorem test_dlen : ∀ x ∈ ([(Instr.dlenFixed 0x8A000006, [], 6, 0), (.dlenFixed 0xBA000008, [], 16, 0),
    (.dlenAsciiLvar 0xB2A00009, asc "9", 9, 1), (.dlenAsciiLlvar 0x8B200013, asc "12", 12, 2),
    (.dlenAsciiLllvar 0x9BA003E7, asc "007", 7, 3), (.dlenBcdLvar 0xB2C00009, [0x07], 7, 1),
    (.dlenBcdLlvar 0x8D400013, [0x08], 8, 1), (.dlenBcdLllvar 0xBFC003E7, [0x01, 0x23], 123, 2),
    (.dlenBinLvar 0xB2E00009, [0x09], 9, 1), (.dlenBinLlvar 0x8F60000A, [0x00, 0x0A], 10, 2),
    (.dlenBinLllvar 0xBFE003E7, [0x00, 0x00, 0x10], 16, 3)] : List (Instr × Bytes × Nat × Nat)),
    after (exec x.1 (atLength x.2.1)) (fun t => (t.len, t.cursor, t.stage)) = some (x.2.2.1, x.2.2.2, some .dval) := by
  decide

/-- R225 to R229: too large, not numeric, an underrun, a zero length. -/
theorem test_dlen_ends : ∀ x ∈ ([(Instr.dlenAsciiLlvar 0x8B200013, asc "20", .peLenTooLarge, 2),
    (.dlenBcdLlvar 0x8D400013, [0x1A], .peLenNonnum, 1), (.dlenBinLllvar 0xBFE003E7, [0x00, 0x00], .peUnderrun, 0),
    (.dlenBinLllvar 0xBFE003E7, [0x00, 0x03, 0xE8], .peLenTooLarge, 3), (.dlenAsciiLlvar 0x8B200013, asc "00", .none, 2)] :
      List (Instr × Bytes × Cause × Nat)),
    after (exec x.1 (atLength x.2.1)) (fun t => (t.cause, t.cursor, t.val 2)) = some (x.2.2.1, x.2.2.2, .absent) := by
  decide

/-- The examples of R234 to R238: the value and the cursor. -/
theorem test_dval : ∀ x ∈ ([(Instr.dvalAsciiN 0x8A000006, 6, asc "000123", .int 123, 6),
    (.dvalAsciiTA 0x82000002, 2, asc "00", .text (asc "00"), 2), (.dvalAsciiTS 0x92000002, 2, asc "#!", .text (asc "#!"), 2),
    (.dvalAsciiTAn 0x9A000002, 2, asc "00", .text (asc "00"), 2), (.dvalAsciiTAs 0xA2000002, 1, asc "a", .text (asc "a"), 1),
    (.dvalAsciiTNs 0xAA000002, 1, asc "-", .text (asc "-"), 1), (.dvalAsciiTAns 0xB2A00009, 1, asc "x", .text (asc "x"), 1),
    (.dvalAsciiTB 0xBA000001, 2, asc "aB", .text (asc "aB"), 2), (.dvalAsciiTZ 0xC3200025, 3, asc "1=D", .text (asc "1=D"), 3),
    (.dvalBcdN 0x8C000003, 3, [0x01, 0x23], .int 123, 2), (.dvalBcdN 0x8C000006, 6, [0, 0, 0], .int 0, 3),
    (.dvalBcdZ 0xC4000008, 8, [0x12, 0x34, 0xD5, 0x67], .text (asc "1234=567"), 4),
    (.dvalBcdZ 0xC4000008, 8, [0x12, 0x34, 0xD5, 0x6F], .text (asc "1234=56"), 4),
    (.dvalBinN 0x8F60000A, 2, [0xAB, 0x01], .text (asc "AB01"), 2), (.dvalBinB 0xBE000002, 2, [0xAB, 0x01], .text (asc "AB01"), 2),
    (.dvalBinZ 0xC6A00005, 2, [0xAB, 0x01], .text (asc "AB01"), 2)] : List (Instr × Nat × Bytes × Value × Nat)),
    after (exec x.1 (atValue x.2.1 x.2.2.1)) (fun t => (t.val 2, t.cursor, t.phase)) =
      some (x.2.2.2.1, x.2.2.2.2, .done) := by decide

/-- R234, R236: not numeric; R66: an underrun leaves the cursor. -/
theorem test_dval_ends : ∀ x ∈ ([(Instr.dvalAsciiN 0x8A000006, 2, asc "1A", .peValue, 2),
    (.dvalBcdN 0x8C000006, 2, [0x1A], .peValue, 1), (.dvalBinB 0xBE000008, 2, [0x1A], .peUnderrun, 0)] :
      List (Instr × Nat × Bytes × Cause × Nat)),
    after (exec x.1 (atValue x.2.1 x.2.2.1)) (fun t => (t.cause, t.cursor, t.ekey)) =
      some (x.2.2.2.1, x.2.2.2.2, some 2) := by decide

/-- The examples of R264 to R266: the text, the length, the next stage. -/
theorem test_bfmt_fixed : ∀ x ∈ ([(Instr.bfmtFixedN 0x8A000006, .int 123, asc "000123", 6),
    (.bfmtFixedN 0x8A000006, .text (asc "42"), asc "000042", 6),
    (.bfmtFixedTA 0x82000003, .text (asc "AB"), asc " AB", 3), (.bfmtFixedTS 0x92000003, .text (asc "#"), asc "  #", 3),
    (.bfmtFixedTAn 0x9A000002, .text (asc "00"), asc "00", 2), (.bfmtFixedTAs 0xA2000002, .int 7, asc " 7", 2),
    (.bfmtFixedTNs 0xAA000002, .int 7, asc " 7", 2), (.bfmtFixedTAns 0xB2000008, .text (asc "AB"), asc "      AB", 8),
    (.bfmtFixedPB 0xBA000008, .text (asc "0123456789ABCDEF"), asc "0123456789ABCDEF", 16),
    (.bfmtFixedPZ 0xC4000008, .text (asc "1234D567"), asc "1234D567", 8)] : List (Instr × Value × Bytes × Nat)),
    after (exec x.1 (atFormat x.2.1)) (fun t => (t.txt, t.len, t.stage)) =
      some (x.2.2.1, x.2.2.2, some .bemit) := by decide

/-- The examples of R272. -/
theorem test_bfmt_var : ∀ x ∈ ([(Instr.bfmtVarLvar 0xB2A00009, .text (asc "x"), asc "x", 1),
    (.bfmtVarLlvar 0xC5400025, .text (asc "1234=567"), asc "1234D567", 8),
    (.bfmtVarLlvar 0xC5400025, .text (asc "1234=56"), asc "1234D56F", 8),
    (.bfmtVarLllvar 0xBFC003E7, .text (asc "0A1B"), asc "0A1B", 2)] : List (Instr × Value × Bytes × Nat)),
    after (exec x.1 (atFormat x.2.1)) (fun t => (t.txt, t.len, t.stage)) =
      some (x.2.2.1, x.2.2.2, some .bpfx) := by decide

/-- R264 to R267, R273: no value, not the width, an odd count of hexadecimal characters, too long. -/
theorem test_bfmt_ends : ∀ x ∈ ([(Instr.bfmtFixedN 0x8A000006, .absent, .beNoValue),
    (.bfmtFixedN 0x8A000006, .int 1234567, .beFixedLen), (.bfmtFixedPB 0xBE000008, .text (asc "012"), .beValueEnc),
    (.bfmtVarLvar 0xB2A00009, .int 1234567890, .beTooLong)] : List (Instr × Value × Cause)),
    after (exec x.1 (atFormat x.2.1)) ended = some (.buildError, x.2.2, some 2) := by decide

/-- The examples of R274 to R276. -/
theorem test_bpfx : ∀ x ∈ ([(Instr.bpfxAsciiLvar 0xB2A00009, 0, asc "0"), (.bpfxAsciiLlvar 0x8B200013, 8, asc "08"),
    (.bpfxAsciiLllvar 0x9BA003E7, 12, asc "012"), (.bpfxBcdLvar 0xB2C00009, 7, [0x07]), (.bpfxBcdLlvar 0x8D400013, 8, [0x08]),
    (.bpfxBcdLllvar 0xBFC003E7, 123, [0x01, 0x23]), (.bpfxBinLvar 0xB2E00009, 9, [0x09]),
    (.bpfxBinLlvar 0x8F60000A, 10, [0x00, 0x0A]), (.bpfxBinLllvar 0xBFE003E7, 16, [0x00, 0x00, 0x10])] :
      List (Instr × Nat × Bytes)),
    after (exec x.1 (atPrefix x.2.1)) (fun t => (txText t, t.stage)) = some (x.2.2, some .bemit) := by decide

/-- R274 to R276: the length has too many digits or bytes for the prefix. -/
theorem test_bpfx_ends : ∀ x ∈ ([(Instr.bpfxAsciiLvar 0xB2A0000C, 10), (.bpfxBcdLlvar 0x8D400080, 100),
    (.bpfxBinLvar 0xB2E00200, 256)] : List (Instr × Nat)),
    after (exec x.1 (atPrefix x.2)) ended = some (.buildError, .bePrefixOvf, some 2) := by decide

/-- The examples of R280 to R282. -/
theorem test_bemit : ∀ x ∈ ([(Instr.bemitAscii 0x8A000006, asc "000123", asc "000123"),
    (.bemitBcd 0xC5400025, asc "1234D567", [0x12, 0x34, 0xD5, 0x67]), (.bemitBcd 0x8C000003, asc "021", [0x00, 0x21]),
    (.bemitBin 0xBE000002, asc "AB01", [0xAB, 0x01])] : List (Instr × Bytes × Bytes)),
    after (exec x.1 (atEmit x.2.1)) (fun t => (txText t, t.phase)) = some (x.2.2, .done) := by decide

/-- R281, R282: a character that does not pack; R68: TXBUF is full. -/
theorem test_bemit_ends :
    after (exec (.bemitBcd 0x8C000006) (atEmit (asc "1G"))) ended = some (.buildError, .beValueEnc, some 2) ∧
      after (exec (.bemitBin 0xBE000001) (atEmit (asc "GG"))) ended = some (.buildError, .beValueEnc, some 2) ∧
      after (exec (.bemitAscii 0x8A000006) (withCap 5 (atEmit (asc "000123")))) ended =
        some (.buildError, .beTxOvf, none) := by decide

/-! ### The step -/

/-- R37, R380: the step takes the host's command; after reset every opcode is answered. -/
theorem test_step_runs : after (step (State.reset.withFetchWord 32 0x04000001)) ended =
    some (.specError, .seUnbound, none) ∧
    after (step (State.reset.withFetchWord 32 0x30000000)) ended = some (.ok, .none, none) ∧
    after (step { bound 0 with host := [.writeReg 0 0x06000000] }) statusWord = some 0x00FF4014 := by decide

/-- R47, R60, R395: a buffer byte that does not exist, a register that does not exist, an access while busy. -/
theorem test_step_stops :
    step { bound 0 with host := [.writeBuf .rx 65535 [1]] } = .fault .bufferAddress ∧
      step { bound 0 with host := [.readReg 10] } = .fault .noRegister ∧
      step { atLength [] with host := [.readBuf .rx 0] } = .refused .hostContract :=
  ⟨rfl, rfl, rfl⟩

/-- R120: `OP "21"`, then `BCD_ENCODE`, as the host actions of the assembler line. -/
theorem test_assembler :
    after (runSteps 3 { fresh with host := assemble (.codec .bcdEncode (asc "21")) }) resText = some [0x21] := by
  decide

/-! ### Witnesses: a concrete state and operands that meet the hypotheses of each statement -/

/-- A DECODE in field 2 of TCAT_A, at the value stage, six value bytes ahead. -/
def midDecode : State := withMti (asc "0200") (atValue 6 (asc "000123"))

theorem witness_StepKeepsInv : midDecode.Inv ∧ ∃ t, step midDecode = .next t ∧ t.cursor = 6 :=
  ⟨{ rxWf := by decide, txWf := by decide, opWf := by decide, resWf := by decide
     valsWf := by decide, valsKeys := by decide, rxlenCap := by decide
     txlenCap := by decide, oplenCap := by decide, reslenCap := by decide
     cursorCap := by decide, mtiLegal := by decide, boundChecked := by decide
     idlePhase := by decide, idleRunning := by decide, busyBound := by decide
     busyResults := by decide, fieldPresent := by decide, idleLatches := by decide
     stageField := by decide, stagePath := by intro st h; cases h; rfl, stageDesc := by decide
     prefixVar := by decide, valueLen := by decide, statusOk := by decide
     okKey := by decide, keyRange := by intro k h; cases h },
    next_of_after (f := fun t => t.cursor) (by decide)⟩

theorem witness_StepRunsCommand : (bound 0).busy = false ∧
    ({ bound 0 with host := [.writeReg 0 0x04000001, .readReg 1] } : State).host =
      .writeReg 0 0x04000001 :: [.readReg 1] ∧ decodeCommand 0x04000001 = .ok (.setStrict 1) := by decide

theorem witness_StepRunsMicroOp : midDecode.busy = true ∧ midDecode.host = [] ∧ midDecode.phase = .field ∧
    midDecode.stage = some .dval ∧ decodeMicro .dval midDecode.desc = .ok (.dvalAsciiN 0x8B200013) := by decide

/-- Each clause, at the lowest and at the highest data field; field 3 of TCAT_C and field 128 of TCAT_A have entries,
field 11 of TCAT_C and field 127 of TCAT_A have none. -/
theorem witness_StepReadsDescriptor :
    ∀ x ∈ ([(.decode, 0, 2, true), (.build, 0, 128, true), (.decode, 2, 11, false), (.build, 0, 127, false)] :
      List (Running × BitVec 2 × Nat × Bool)),
    (inField x.1 x.2.1 x.2.2.1 none 0 []).busy = true ∧ (inField x.1 x.2.1 x.2.2.1 none 0 []).host = [] ∧
      (inField x.1 x.2.1 x.2.2.1 none 0 []).phase = .field ∧ (inField x.1 x.2.1 x.2.2.1 none 0 []).stage = none ∧
      descV ((inField x.1 x.2.1 x.2.2.1 none 0 []).catWord x.2.2.1) = x.2.2.2 ∧
      (inField x.1 x.2.1 x.2.2.1 none 0 []).running = x.1 := by decide

theorem witness_HostRegisterWrites :
    (midDecode.busy = true ∧
        ({ midDecode with host := [.writeReg 0 0x02000000] } : State).host = .writeReg 0 0x02000000 :: []) ∧
      (∀ v ∈ [0, 65535, 65536, 0xFFFFFFFF], ∀ n ∈ [3, 5], (bound 0).busy = false ∧
        ({ bound 0 with host := [.writeReg n (BitVec.ofNat 32 v)] } : State).host = .writeReg n (BitVec.ofNat 32 v) :: []) ∧
      ∀ n ∈ [1, 2, 4, 6, 7, 8, 9], ({ midDecode with host := [.writeReg n 1] } : State).host = .writeReg n 1 :: [] := by
  decide

/-- A capacity of 4: a write that fills the buffer and one byte more, an empty write at the end, a read of the last
address and of the one behind it, at a length of 2 below and at the length; the registers 9 and 10; a reset in the middle
of a DECODE. -/
theorem witness_HostAccesses :
    (withCap 4 (withRx (asc "AB") (bound 0))).busy = false ∧ midDecode.busy = true ∧
      (∀ n ∈ [0, 2, 3, 4, 5, 6, 7, 8, 9], (atHost (.readReg n) (bound 0)).host = .readReg n :: [] ∧
        (atHost (.readReg n) midDecode).host = .readReg n :: []) ∧
      (∀ x ∈ [(0, asc "ABCD"), (3, asc "D"), (4, [])],
        x.1 + x.2.length ≤ (withCap 4 (withRx (asc "AB") (bound 0))).params.bufCap) ∧
      (∀ x ∈ [(0, asc "ABCDE"), (4, asc "E"), (5, [])],
        (withCap 4 (withRx (asc "AB") (bound 0))).params.bufCap < x.1 + x.2.length) ∧
      (∀ a ∈ [0, 1], a < (withCap 4 (withRx (asc "AB") (bound 0))).rxlen) ∧
      (∀ a ∈ [2, 3], ¬a < (withCap 4 (withRx (asc "AB") (bound 0))).rxlen ∧
        a < (withCap 4 (withRx (asc "AB") (bound 0))).params.bufCap) ∧
      (withCap 4 (withRx (asc "AB") (bound 0))).params.bufCap ≤ 4 ∧ ¬9 < 9 ∧ 9 < 10 ∧
      (atHost .hwReset midDecode).host = .hwReset :: [] := by decide

/-- The bytes of CFG and CURSOR (R45, R46), a byte below RXLEN, and CATSEL and BUSY after a reset in the middle of a
DECODE (R380, R381). -/
theorem test_host_accesses :
    after (step (atHost (.readReg 9) (bound 2))) (fun t => t.hostData) = some 2 ∧
      after (step (atHost (.readReg 8) { bound 0 with cursor := 0x1234 })) (fun t => t.hostData) = some 0x1234 ∧
      after (step (atHost (.readBuf .rx 1) (withRx (asc "AB") (bound 0)))) (fun t => t.hostData) = some 0x42 ∧
      after (step (atHost (.writeBuf .op 65533 [1, 2]) (bound 0))) (fun t => memRead t.opbuf 65534) = some 2 ∧
      after (step (atHost .hwReset midDecode)) (fun t => (t.catsel, t.busy)) = some (3, false) := by decide

theorem witness_StatusRegister : (bound 0).ekey = none ∧
    (∀ k ∈ [0, 128], ({ bound 0 with ekey := some k } : State).ekey = some k ∧ k ≤ 128) ∧
    ({ bound 0 with host := [.readReg 1] } : State).host = .readReg 1 :: [] := by decide

/-- One instruction of each format; the operands of a command are free. -/
theorem witness_EncodingRoundTrip : ∀ i ∈ [Instr.init 3 true, .setBit 0xFF 0xFFFF, .dlenFixed 0x807FFFFF,
    .dvalBinZ 0xC61FFFFF, .bfmtVarLllvar 0xFFFFFFFF, .bpfxBinLvar 0x80E00000, .bemitBcd 0x84000000],
    i.WellFormed = true := by decide

theorem witness_DecodedMicroOpIsItsRow : decodeMicro .bemit 0xBE000008 = .ok (.bemitBin 0xBE000008) := by decide

/-- A legal FIXED descriptor and legal variable ones, at the class codes 0 and 8 and the maxima 0 and 65535. -/
theorem witness_LegalDescriptorSelectsOneRow :
    (∀ d ∈ [0x82000000, 0xC6A0FFFF, 0xC3BF0001], descV (BitVec.ofNat 32 d) = true ∧
        checkWord (BitVec.ofNat 32 d) = none) ∧
      descLdisc 0x82000000 = 0 ∧ descLdisc 0xC6A0FFFF ≠ 0 ∧ descLdisc 0xC3BF0001 ≠ 0 := by decide

theorem witness_OpcodeMap :
    (∀ op ∈ [0x01, 0x02, 0x03, 0x04, 0x05, 0x10, 0x11, 0x12, 0x13, 0x14, 0x15, 0x16, 0x20, 0x21, 0x22, 0x23, 0x24,
        0x25, 0x30, 0x31, 0x32, 0x33, 0x34, 0x35],
        cmdOp (BitVec.ofNat 8 op ++ (0xFFFFFF : BitVec 24)) = BitVec.ofNat 8 op) ∧
      (bound 0).busy = false ∧
      ∀ w ∈ [0x00000000, 0x06000000, 0x0F000000, 0x17000000, 0x26000000, 0x36000000, 0xFF000000],
        ({ bound 0 with host := [.writeReg 0 (BitVec.ofNat 32 w)] } : State).host =
            .writeReg 0 (BitVec.ofNat 32 w) :: [] ∧
          (BitVec.ofNat 32 w).extractLsb' 24 8 ∉ [0x01#8, 0x02, 0x03, 0x04, 0x05, 0x10, 0x11, 0x12, 0x13, 0x14, 0x15, 0x16, 0x20, 0x21,
            0x22, 0x23, 0x24, 0x25, 0x30, 0x31, 0x32, 0x33, 0x34, 0x35] := by decide

/-- The keys and bit values at the edges of their ranges. -/
theorem witness_FrameRefusals : fresh.bound = false ∧ (bound 0).bound = true ∧
    (∀ key ∈ [0, 129, 255], (BitVec.ofNat 8 key).toNat = 0 ∨ 128 < (BitVec.ofNat 8 key).toNat) ∧
    (∀ key ∈ [0, 1, 129, 255], (BitVec.ofNat 8 key).toNat < 2 ∨ 128 < (BitVec.ofNat 8 key).toNat) ∧
    (∀ key ∈ [129, 255], 128 < (BitVec.ofNat 8 key).toNat) ∧
    (∀ arg ∈ [2, 0x8001, 0xFFFF], 1 < (BitVec.ofNat 16 arg).toNat) ∧
    ∀ key ∈ [1, 128], 1 ≤ (BitVec.ofNat 8 key).toNat ∧ (BitVec.ofNat 8 key).toNat ≤ 128 := by decide

theorem witness_InitBinds : ∀ c ∈ ([0, 1, 2] : List (BitVec 2)), c ≠ 3 ∧ catCheck fresh.catrom c = none := by
  decide

theorem witness_InitFails : (0 : BitVec 2) ≠ 3 ∧
    catCheck ({ fresh with catrom := romX } : State).catrom 0 = some (.seChkLenc, 2) := by decide

/-- Key 2 fails the check and keys 0 and 1 pass it; TCAT_A passes. -/
theorem witness_CatalogCheck : catCheck romX 0 = some (.seChkLenc, 2) ∧ catCheck rom 0 = none := by decide

theorem witness_SetStrict : (bound 0).bound = true ∧ (0x0400FFFF : Word).extractLsb' 24 8 = 0x04#8 ∧
    (∀ arg ∈ [0, 1], (BitVec.ofNat 16 arg).toNat ≤ 1) ∧
    ∀ arg ∈ [2, 0x100, 0xFFFF], 1 < (BitVec.ofNat 16 arg).toNat := by decide

theorem witness_GetStrict : (bound 0).bound = true ∧ (0x05FFFFFF : Word).extractLsb' 24 8 = 0x05#8 := by
  decide

/-- Four digits and three; a text of one or two digits is padded to class 0, which is never legal. -/
theorem witness_SetMtiAccepts : ∀ t ∈ [asc "9975", asc "100"], (withOp t (bound 0)).bound = true ∧
    1 ≤ (withOp t (bound 0)).oplen ∧ (withOp t (bound 0)).oplen ≤ 4 ∧ isNum (withOp t (bound 0)).operand = true ∧
    mtiCheck (padL (withOp t (bound 0)).operand 0x30 4) (bound 0).strict = none := by decide

theorem witness_SetMtiRejects :
    (∀ t ∈ [asc "", asc "02000"], (withOp t (bound 0)).oplen = 0 ∨ 4 < (withOp t (bound 0)).oplen) ∧
      (∀ t ∈ [asc "A", asc "020A"], 1 ≤ (withOp t (bound 0)).oplen ∧ (withOp t (bound 0)).oplen ≤ 4 ∧
        isNum (withOp t (bound 0)).operand = false) ∧
      ∀ x ∈ [(asc "1", Cause.mtiClass), (asc "0290", .mtiFunction), (asc "3000", .mtiVersion)],
        1 ≤ (withOp x.1 (bound 0)).oplen ∧ (withOp x.1 (bound 0)).oplen ≤ 4 ∧
          isNum (withOp x.1 (bound 0)).operand = true ∧
          mtiCheck (padL (withOp x.1 (bound 0)).operand 0x30 4) (bound 0).strict = some x.2 := by decide

/-- Three and five characters, the characters beside the digits, and the texts of R207 and R208 for each further cause. -/
theorem witness_MtiEnumeration :
    (∀ t ∈ [asc "020", asc "02000"], t.length ≠ 4) ∧
      (∀ t ∈ [asc "02/0", asc "02:0"], ∃ c ∈ t, c.toNat < 48 ∨ 57 < c.toNat) ∧
      (∀ x ∈ [(asc "0000", true, some Cause.mtiStrictClass), (asc "0000", false, some .mtiClass),
          (asc "9999", true, some .mtiStrictOrigin), (asc "9999", false, some .mtiFunction),
          (asc "3200", true, some .mtiVersion), (asc "0280", false, some .mtiFunction),
          (asc "0206", false, some .mtiOrigin), (asc "9975", true, none)], mtiCheck x.1 x.2.1 = x.2.2) := by decide

theorem witness_GetMti : (withCap 4 (withMti (asc "0210") (bound 0))).mtiValid = true ∧
    (withCap 4 (withMti (asc "0210") (bound 0))).bound = true ∧
    4 ≤ (withCap 4 (withMti (asc "0210") (bound 0))).params.bufCap ∧
    isNum (mtiBytes (withCap 4 (withMti (asc "0210") (bound 0))).mti) = true ∧ (bound 0).mtiValid = false := by
  decide

theorem witness_SetBit_GetBit : (bound 0).bound = true ∧ (0x12FFFFFF : Word).extractLsb' 24 8 = 0x12#8 ∧
    (0x13000000 : Word).extractLsb' 24 8 = 0x13#8 ∧
    (∀ key ∈ [1, 128], 1 ≤ (BitVec.ofNat 8 key).toNat ∧ (BitVec.ofNat 8 key).toNat ≤ 128) ∧
    (∀ key ∈ [0, 129], (BitVec.ofNat 8 key).toNat = 0 ∨ 128 < (BitVec.ofNat 8 key).toNat) ∧
    (∀ arg ∈ [0, 1], (BitVec.ofNat 16 arg).toNat ≤ 1) ∧ 1 < (2 : BitVec 16).toNat := by decide

/-- A value of exactly the maximum: 19 digits in field 2, 16 characters in field 128 (`b` under ASCII), 17 hexadecimal
characters in field 128 of TCAT_B (`b` under BIN, 8 bytes); in characters, 8 in field 128. -/
theorem witness_SetFieldAccepts :
    (∀ x ∈ [((0 : BitVec 2), (2 : BitVec 8), asc "1234567890123456789"), (0, 128, asc "0123456789ABCDEF"),
        (1, 128, asc "0123456789ABCDEF0")], 2 ≤ x.2.1.toNat ∧ x.2.1.toNat ≤ 128 ∧
        descV ((withOp x.2.2 (bound x.1)).catWord x.2.1.toNat) = true ∧
        (withOp x.2.2 (bound x.1)).params.setLenMeasure = .contentUnits ∧
        (if descEnc ((withOp x.2.2 (bound x.1)).catWord x.2.1.toNat) = some .bin
          then (str (.text (withOp x.2.2 (bound x.1)).operand)).length / 2
          else (str (.text (withOp x.2.2 (bound x.1)).operand)).length) ≤
            descEffmax ((withOp x.2.2 (bound x.1)).catWord x.2.1.toNat)) ∧
      (decToNat (withOp (asc "000999") (bound 0)).operand = some 999 ∧
        (str (.int 999)).length ≤ descEffmax ((bound 0).catWord 3)) ∧
      (inChars (withOp (asc "01234567") (bound 0))).params.setLenMeasure = .textChars ∧
      (str (.text (inChars (withOp (asc "01234567") (bound 0))).operand)).length ≤ descMax ((bound 0).catWord 128) := by
  decide

/-- One character above the maximum of field 39; in characters, one above that of field 128; no entry at field 5; an
operand that is not numeric. -/
theorem witness_SetFieldRefuses : (bound 0).bound = true ∧ decToNat (withOp (asc "1A") (bound 0)).operand = none ∧
    descV ((bound 0).catWord 5) = false ∧
    (descV ((withOp (asc "000") (bound 0)).catWord 39) = true ∧
      (withOp (asc "000") (bound 0)).params.setLenMeasure = .contentUnits ∧
      descEffmax ((bound 0).catWord 39) <
        (if descEnc ((bound 0).catWord 39) = some .bin
          then (str (.text (withOp (asc "000") (bound 0)).operand)).length / 2
          else (str (.text (withOp (asc "000") (bound 0)).operand)).length)) ∧
    (inChars (withOp (asc "012345678") (bound 0))).params.setLenMeasure = .textChars ∧
    descMax ((bound 0).catWord 128) < (str (.text (inChars (withOp (asc "012345678") (bound 0))).operand)).length ∧
    decToNat (withOp (asc "1000000") (bound 0)).operand = some 1000000 ∧
    descEffmax ((bound 0).catWord 3) < (str (.int 1000000)).length := by decide

/-- Keys 2 and 128, and the keys 1 and 129 beside them; results that fit RESBUF exactly and by one byte not. -/
theorem witness_GetField : (bound 0).bound = true ∧ (0x16FFFFFF : Word).extractLsb' 24 8 = 0x16#8 ∧
    (∀ key ∈ [1, 129], (BitVec.ofNat 8 key).toNat < 2 ∨ 128 < (BitVec.ofNat 8 key).toNat) ∧
    (∀ key ∈ [2, 128], 2 ≤ (BitVec.ofNat 8 key).toNat ∧ (BitVec.ofNat 8 key).toNat ≤ 128 ∧
        (bound 0).val (BitVec.ofNat 8 key).toNat = .absent) ∧
      (withCap 3 (withField 2 (.int 123) (bound 0))).val 2 = .int 123 ∧
      (natToDec 123).length ≤ (withCap 3 (withField 2 (.int 123) (bound 0))).params.bufCap ∧
      (withCap 2 ((bound 0).setVal 128 (.text (asc "00")))).val 128 = .text (asc "00") ∧
      (asc "00").length ≤ (withCap 2 ((bound 0).setVal 128 (.text (asc "00")))).params.bufCap ∧
      (withCap 2 (withField 2 (.int 123) (bound 0))).params.bufCap <
        (str ((withCap 2 (withField 2 (.int 123) (bound 0))).val 2)).length := by decide

theorem witness_SetThenGetField :
    (withOp (asc "00") (bound 0)).oplen ≤ (withOp (asc "00") (bound 0)).params.bufCap ∧
      ∃ t, exec (.setFieldTxt 39) (withOp (asc "00") (bound 0)) = .next t ∧ t.kind = .ok :=
  ⟨by decide, next_of_after (by decide)⟩

/-- Keys 0 and 128; a description of 3 bytes with a RESBUF of 3 bytes and of 2; a key without an entry. -/
theorem witness_Introspection : (bound 0).bound = true ∧
    (∀ key ∈ [0, 128], (BitVec.ofNat 8 key).toNat ≤ 128 ∧ descV ((bound 0).catWord (BitVec.ofNat 8 key).toNat) = true ∧
      checkWord ((bound 0).catWord (BitVec.ofNat 8 key).toNat) = none) ∧
    (catRomEntry (withCap 3 (bound 0)).catrom (withCap 3 (bound 0)).catsel 0).desc.length ≤
      (withCap 3 (bound 0)).params.bufCap ∧
    (withCap 2 (bound 0)).params.bufCap <
      (catRomEntry (withCap 2 (bound 0)).catrom (withCap 2 (bound 0)).catsel 0).desc.length ∧
    descV ((bound 0).catWord 127) = false := by decide

/-- Results that fit RESBUF exactly; the numbers 4294967295 and 4294967296. -/
theorem witness_CodecsAnswer :
    2 * (withCap 4 (withOp [0x12, 0xAF] fresh)).oplen ≤ (withCap 4 (withOp [0x12, 0xAF] fresh)).params.bufCap ∧
      (bcdEncode (withCap 2 (withOp (asc "123") fresh)).operand = some [0x01, 0x23] ∧
        [0x01#8, 0x23].length ≤ (withCap 2 (withOp (asc "123") fresh)).params.bufCap) ∧
      (hexDecode (withCap 2 (withOp (asc "ab01") fresh)).operand = some [0xAB, 0x01]) ∧
      (bcdToInt (withCap 10 (withOp [0x42, 0x94, 0x96, 0x72, 0x95] fresh)).operand = some 4294967295 ∧
        (natToDec 4294967295).length ≤ 10 ∧ 4294967295 < 2 ^ 32) ∧
      (bcdToInt (withCap 10 (withOp [0x42, 0x94, 0x96, 0x72, 0x96] fresh)).operand = some 4294967296 ∧
        (natToDec 4294967296).length ≤ 10 ∧ 2 ^ 32 ≤ 4294967296) ∧
      decToNat (withCap 1 (withOp (asc "0012") fresh)).operand = some 12 ∧ bcdEncode (natToDec 12) = some [0x12] := by
  decide

/-- Each of the six: a result one byte too long for RESBUF, or an operand that does not convert. -/
theorem witness_CodecsReject :
    (withCap 3 (withOp [0x12, 0x34] fresh)).params.bufCap < 2 * (withCap 3 (withOp [0x12, 0x34] fresh)).oplen ∧
      (∀ v, bcdEncode (withOp (asc "1G") fresh).operand = some v → (withOp (asc "1G") fresh).params.bufCap < v.length) ∧
      (∀ v, bcdEncode (withCap 1 (withOp (asc "123") fresh)).operand = some v → 1 < v.length) ∧
      (∀ v, hexDecode (withOp (asc "ABC") fresh).operand = some v → (withOp (asc "ABC") fresh).params.bufCap < v.length) ∧
      (∀ n, bcdToInt (withOp [0x1A] fresh).operand = some n → 65535 < (natToDec n).length) ∧
      ∀ n v, decToNat (withOp [] fresh).operand = some n → bcdEncode (natToDec n) = some v → 65535 < v.length := by
  refine ⟨by decide, ?_, ?_, ?_, ?_, ?_⟩
  · intro v h; rw [show bcdEncode (withOp (asc "1G") fresh).operand = none by decide] at h; cases h
  · intro v h
    rw [show bcdEncode (withCap 1 (withOp (asc "123") fresh)).operand = some [0x01, 0x23] by decide] at h
    cases h; decide
  · intro v h; rw [show hexDecode (withOp (asc "ABC") fresh).operand = none by decide] at h; cases h
  · intro n h; rw [show bcdToInt (withOp [0x1A] fresh).operand = none by decide] at h; cases h
  · intro n v h; rw [show decToNat (withOp [] fresh).operand = none by decide] at h; cases h

theorem witness_CodecLaws : hexDecode (asc "aB01") = some [0xAB, 0x01] ∧ bcdEncode (asc "1d5") = some [0x01, 0xD5] ∧
    bcdToInt [0x00, 0x00, 0x07] = some 7 ∧ decToNat (asc "0012") = some 12 ∧ decToNat (asc "1A") = none := by
  decide

/-- A framer that is not bound and whose buffers have no capacity: each of the 21 commands fails. -/
theorem witness_FailuresKeepMessage : ∀ i ∈ [Instr.setStrict 1, .getStrict, .setMti, .getMti, .setBit 1 1, .getBit 1,
    .setFieldTxt 2, .setFieldInt 2, .getField 2, .getDenc 0, .getLdisc 0, .getClass 0, .getLenc 0, .getMaxlen 0,
    .getDesc 0, .bcdDecode, .bcdEncode, .bcdToInt, .intToBcd, .hexEncode, .hexDecode],
    ∃ t, exec i (withCap 0 (withOp (asc "GG") fresh)) = .next t ∧ decide (t.kind = .ok) = false := by
  have h : ∀ i ∈ [Instr.setStrict 1, .getStrict, .setMti, .getMti, .setBit 1 1, .getBit 1,
      .setFieldTxt 2, .setFieldInt 2, .getField 2, .getDenc 0, .getLdisc 0, .getClass 0, .getLenc 0, .getMaxlen 0,
      .getDesc 0, .bcdDecode, .bcdEncode, .bcdToInt, .intToBcd, .hexEncode, .hexDecode],
      after (exec i (withCap 0 (withOp (asc "GG") fresh))) (fun t => decide (t.kind = .ok)) = some false := by
    decide
  exact fun i hi => next_of_after (h i hi)

theorem witness_BitmapBits : ∀ i ∈ [1, 64], 1 ≤ i ∧ i ≤ 64 := by decide

/-- Field 70 is present: two words are emitted under an ASCII header, and the same bytes received. -/
theorem witness_BitmapSymmetry :
    (∃ t, bitmapEncode (withField 70 (.int 1) (bound 0)) = .val () t ∧
      (t.txlen, memReadRange t.txbuf 0 32) = (0 + 32, asc "80000000000000000400000000000000")) ∧
      (withField 70 (.int 1) (bound 0)).txlen = 0 ∧
      (withRx (asc "80000000000000000400000000000000") (bound 0)).cursor + 32 ≤
        (withRx (asc "80000000000000000400000000000000") (bound 0)).rxlen ∧
      memReadRange (withRx (asc "80000000000000000400000000000000") (bound 0)).rxbuf 0 32 =
        asc "80000000000000000400000000000000" :=
  ⟨val_of_got (by decide), by decide, by decide, by decide⟩

/-- A maximum of 6, and TCAT_C field 5 with a maximum of 0. -/
theorem witness_DlenFixed : descV 0x8A000006 = true ∧ descLdisc 0x8A000006 = 0 ∧ descEffmax 0x8A000006 ≠ 0 ∧
    descEffmax 0x8A000000 = 0 := by decide

/-- The lengths 0 and the maximum, with the prefix the last bytes received. -/
theorem witness_DlenAscii :
    (∀ x ∈ [(asc "0", 1, (0xB2A00009 : Word), 0), (asc "9", 1, 0xB2A00009, 9), (asc "00", 2, 0x8B200013, 0),
        (asc "19", 2, 0x8B200013, 19), (asc "000", 3, 0x9BA003E7, 0), (asc "999", 3, 0x9BA003E7, 999)],
      (atLength x.1).cursor + x.2.1 ≤ (atLength x.1).rxlen ∧
        decToNat (memReadRange (atLength x.1).rxbuf (atLength x.1).cursor x.2.1) = some x.2.2.2 ∧
        x.2.2.2 ≤ descEffmax x.2.2.1) := by decide

theorem witness_DlenBcd :
    (∀ x ∈ [([0x00#8], 1, (0xB2C00009 : Word), 0), ([0x09], 1, 0xB2C00009, 9), ([0x19], 1, 0x8D400013, 19),
        ([0x00, 0x00], 2, 0xBFC003E7, 0), ([0x09, 0x99], 2, 0xBFC003E7, 999)],
      (atLength x.1).cursor + x.2.1 ≤ (atLength x.1).rxlen ∧
        decToNat (bcdDecode (memReadRange (atLength x.1).rxbuf (atLength x.1).cursor x.2.1)) = some x.2.2.2 ∧
        x.2.2.2 ≤ descEffmax x.2.2.1) := by decide

theorem witness_DlenBin :
    (∀ x ∈ [([0x00#8], 1, (0xB2E00009 : Word), 0), ([0x09], 1, 0xB2E00009, 9), ([0x00, 0x0A], 2, 0x8F60000A, 10),
        ([0x00, 0x00, 0x00], 3, 0xBFE003E7, 0), ([0x00, 0x03, 0xE7], 3, 0xBFE003E7, 999)],
      (atLength x.1).params.binLenMode = .beBytes ∧ (atLength x.1).cursor + x.2.1 ≤ (atLength x.1).rxlen ∧
        beNat (memReadRange (atLength x.1).rxbuf (atLength x.1).cursor x.2.1) = x.2.2.2 ∧
        x.2.2.2 ≤ descEffmax x.2.2.1) := by decide

/-- Each way a length stage ends, one byte short, one above the maximum. -/
theorem witness_DlenRefuses : (atLength []).running = .decode ∧
    (refusing (atLength [])).params.binLenMode = .refuse ∧ (atLength []).params.binLenMode = .beBytes ∧
    (atLength [0, 0]).rxlen < (atLength [0, 0]).cursor + 3 ∧
    ((atLength [0, 3, 0xE8]).cursor + 3 ≤ (atLength [0, 3, 0xE8]).rxlen ∧
      descEffmax 0xBFE003E7 < beNat (memReadRange (atLength [0, 3, 0xE8]).rxbuf 0 3)) ∧
    isNum (memReadRange (atLength (asc "1A")).rxbuf (atLength (asc "1A")).cursor 2) = false ∧
    isNum (bcdDecode (memReadRange (atLength [0x1A]).rxbuf (atLength [0x1A]).cursor 1)) = false ∧
    (decToNat (memReadRange (atLength (asc "20")).rxbuf (atLength (asc "20")).cursor 2) = some 20 ∧
      descEffmax 0x8B200013 < 20) := by decide

/-- The value takes exactly the bytes that are left; an odd length under BCD takes half of it rounded up. -/
theorem witness_DvalNumber :
    ((atValue 6 (asc "000123")).cursor + (atValue 6 (asc "000123")).len ≤ (atValue 6 (asc "000123")).rxlen ∧
        decToNat (memReadRange (atValue 6 (asc "000123")).rxbuf 0 6) = some 123) ∧
      (atValue 3 [0x01, 0x23]).cursor + ((atValue 3 [0x01, 0x23]).len + 1) / 2 ≤ (atValue 3 [0x01, 0x23]).rxlen ∧
      decToNat (bcdDecode (memReadRange (atValue 3 [0x01, 0x23]).rxbuf 0 2)) = some 123 := by decide

/-- The class codes 0 and 8; the last bytes received, and one byte too few. -/
theorem witness_DvalText :
    (∀ d ∈ [0x82000002, 0xC2000002], descV (BitVec.ofNat 32 d) = true ∧ descDenc (BitVec.ofNat 32 d) = 1 ∧
      descCls (BitVec.ofNat 32 d) ≠ 1 ∧ (descCls (BitVec.ofNat 32 d)).toNat ≤ 8) ∧
    (atValue 2 (asc "00")).cursor + (atValue 2 (asc "00")).len ≤ (atValue 2 (asc "00")).rxlen ∧
    (atValue 2 (asc "0")).running = .decode ∧
    (atValue 2 (asc "0")).rxlen < (atValue 2 (asc "0")).cursor + (atValue 2 (asc "0")).len := by decide

/-- With and without a trailing `F`. -/
theorem witness_DvalHexText : ∀ bs ∈ [[0x12#8, 0x34, 0xD5, 0x67], [0x12, 0x34, 0xD5, 0x6F]],
    (atValue 8 bs).cursor + ((atValue 8 bs).len + 1) / 2 ≤ (atValue 8 bs).rxlen ∧
      (atValue 4 bs).cursor + (atValue 4 bs).len ≤ (atValue 4 bs).rxlen ∧
      ((hexEncode (memReadRange (atValue 8 bs).rxbuf 0 4)).getLast? = some 0x46 ↔ bs = [0x12, 0x34, 0xD5, 0x6F]) := by
  decide

theorem witness_DvalRefuses : (atValue 6 (asc "00012")).running = .decode ∧
    (atValue 6 (asc "00012")).rxlen < (atValue 6 (asc "00012")).cursor + (atValue 6 (asc "00012")).len ∧
    (atValue 3 [0x01]).rxlen < (atValue 3 [0x01]).cursor + ((atValue 3 [0x01]).len + 1) / 2 ∧
    ((atValue 2 (asc "1A")).cursor + (atValue 2 (asc "1A")).len ≤ (atValue 2 (asc "1A")).rxlen ∧
      isNum (memReadRange (atValue 2 (asc "1A")).rxbuf 0 2) = false) ∧
    (atValue 2 [0x1A]).cursor + ((atValue 2 [0x1A]).len + 1) / 2 ≤ (atValue 2 [0x1A]).rxlen ∧
    isNum (bcdDecode (memReadRange (atValue 2 [0x1A]).rxbuf 0 1)) = false := by decide

/-- A number padded and one that is exactly as wide; `b` under ASCII and under BIN. -/
theorem witness_BfmtFixed : (atFormat (.int 123)).val (atFormat (.int 123)).fidx ≠ .absent ∧
    (descEnc 0x8A000006 ≠ some .bin ∧
      (padL (str ((atFormat (.int 123)).val 2)) 0x30 (descMax 0x8A000006)).length = descEffmax 0x8A000006 ∧
      (padL (str ((atFormat (.int 123456)).val 2)) 0x30 (descMax 0x8A000006)).length = descEffmax 0x8A000006) ∧
    (descEnc 0xBE000001 = some .bin ∧
      (str ((atFormat (.text (asc "0A"))).val 2)).length = 2 * descEffmax 0xBE000001) := by decide

/-- Plain text at the maximum, bytes under BIN, track 2 of odd length. -/
theorem witness_BfmtVar :
    (descClass 0xB2A00009 ≠ some .clsZ ∧ descEnc 0xB2A00009 ≠ some .bin ∧
        (str ((atFormat (.text (asc "123456789"))).val 2)).length = 9 ∧ 9 ≤ descEffmax 0xB2A00009) ∧
      (descEnc 0xBFC00002 = some .bin ∧ (str ((atFormat (.text (asc "0A1B"))).val 2)).length = 2 * 2 ∧
        2 ≤ descEffmax 0xBFC00002) ∧
      descClass 0xC5400025 = some .clsZ ∧ descEnc 0xC5400025 = some .bcd ∧
      asc "1234D56F" = (str ((atFormat (.text (asc "1234=56"))).val 2)).map (fun c => if c = 0x3D#8 then 0x44 else c) ++
        (if (str ((atFormat (.text (asc "1234=56"))).val 2)).length % 2 = 1 then [0x46] else []) := by decide

theorem witness_BfmtRefuses : (atFormat .absent).running = .build ∧ (atFormat .absent).val 2 = .absent ∧
    (descEnc 0xBE000001 = some .bin ∧ (str ((atFormat (.text (asc "0A1"))).val 2)).length % 2 = 1 ∧
      (str ((atFormat (.text (asc "0A1B"))).val 2)).length % 2 = 0 ∧
      (str ((atFormat (.text (asc "0A1B"))).val 2)).length ≠ 2 * descEffmax 0xBE000001) ∧
    (descEnc 0x8A000006 ≠ some .bin ∧
      (padL (str ((atFormat (.int 1234567)).val 2)) 0x30 (descMax 0x8A000006)).length ≠ descEffmax 0x8A000006) ∧
    (descEnc 0xBFC00001 = some .bin ∧ (varText 0xBFC00001 (.text (asc "0A1"))).length % 2 = 1 ∧
      (varText 0xBFC00001 (.text (asc "0A1B"))).length % 2 = 0 ∧
      2 * descEffmax 0xBFC00001 < (varText 0xBFC00001 (.text (asc "0A1B"))).length) ∧
    descEnc 0xB2A00009 ≠ some .bin ∧ descEffmax 0xB2A00009 < (varText 0xB2A00009 (.int 1234567890)).length := by
  decide

/-- The greatest length of each width, with exactly the room that the prefix takes. -/
theorem witness_Bpfx :
    (∀ x ∈ [(9, 1), (99, 2), (999, 3)], (atPrefix x.1).len < 10 ^ x.2 ∧
      (withCap x.2 (atPrefix x.1)).txlen + x.2 ≤ (withCap x.2 (atPrefix x.1)).params.bufCap ∧
      (withCap ((x.2 + 1) / 2) (atPrefix x.1)).txlen + (x.2 + 1) / 2 ≤
        (withCap ((x.2 + 1) / 2) (atPrefix x.1)).params.bufCap) ∧
    ∀ x ∈ [(255, 1), (65535, 2), (16777215, 3)], (atPrefix x.1).params.binLenMode = .beBytes ∧
      (atPrefix x.1).len < 256 ^ x.2 ∧
      (withCap x.2 (atPrefix x.1)).txlen + x.2 ≤ (withCap x.2 (atPrefix x.1)).params.bufCap := by decide

theorem witness_Bemit : bcdEncode (atEmit (asc "021")).txt = some [0x00, 0x21] ∧
    hexDecode (atEmit (asc "AB01")).txt = some [0xAB, 0x01] ∧
    (withCap 2 (atEmit (asc "021"))).txlen + [0x00#8, 0x21].length ≤ (withCap 2 (atEmit (asc "021"))).params.bufCap := by
  decide

/-- The least length that is too great, and one byte too little room. -/
theorem witness_EmitRefuses : (atPrefix 10).running = .build ∧
    (∀ x ∈ [(10, 1), (100, 2), (1000, 3)], 10 ^ x.2 ≤ (atPrefix x.1).len) ∧
    (refusing (atPrefix 1)).params.binLenMode = .refuse ∧ (atPrefix 1).params.binLenMode = .beBytes ∧
    (∀ x ∈ [(256, 1), (65536, 2), (16777216, 3)], 256 ^ x.2 ≤ (atPrefix x.1).len) ∧
    (∀ w ∈ [1, 2, 3], (atPrefix 1).len < 10 ^ w ∧ (atPrefix 1).len < 256 ^ w ∧
      (withCap (w - 1) (atPrefix 1)).params.bufCap < (withCap (w - 1) (atPrefix 1)).txlen + w) ∧
    bcdEncode (atEmit (asc "1G")).txt = none ∧ hexDecode (atEmit (asc "ABC")).txt = none ∧
    (withCap 2 (atEmit (asc "021"))).params.bufCap < (withCap 2 (atEmit (asc "021"))).txlen + (asc "021").length ∧
    (withCap 1 (atEmit (asc "021"))).params.bufCap < (withCap 1 (atEmit (asc "021"))).txlen + [0x00#8, 0x21].length := by
  decide

theorem witness_TrackTwoRoundTrip : ∀ t ∈ [[], asc "09=", asc "12=3"], ∀ c ∈ t, isDigit c = true ∨ c = 0x3D := by
  decide

/-- The example of R220 with two bytes behind the message. -/
theorem witness_DecodeCompletes :
    (withRx (asc "02002000000000000000000000XY") (bound 0)).bound = true ∧
      (withRx (asc "02002000000000000000000000XY") (bound 0)).parse =
        some ({ mti := mtiOfBytes (asc "0200"), pres := BitVec.twoPow 128 125, vals := [(3, .int 0)] }, asc "XY") := by
  decide

/-- A DECODE that fails in the MTI, in the first bitmap word, in the second, and in the second of two fields. -/
theorem witness_DecodeFails :
    (∀ t ∈ [asc "0290", asc "0200", asc "02008000000000000000", asc "02003000000000000000000000"],
        (withRx t (bound 0)).bound = true ∧ (withRx t (bound 0)).parse = none) ∧
      parseMti ((bound 0).catWord 0) false (asc "0290") = none ∧
      parseMti ((bound 0).catWord 0) false (asc "0200") = some (asc "0200", []) ∧
      parseWord ((bound 0).catWord 1) [] = none ∧
      parseWord ((bound 0).catWord 1) (asc "8000000000000000") = some (0x8000000000000000, []) ∧
      parseBitmap ((bound 0).catWord 1) (asc "8000000000000000") = none ∧
      parseBitmap ((bound 0).catWord 1) (asc "3000000000000000000000") =
        some (BitVec.twoPow 128 125 ||| BitVec.twoPow 128 124, asc "000000") ∧
      presentFields (BitVec.twoPow 128 125 ||| BitVec.twoPow 128 124) = [3] ++ 4 :: [] ∧
      parseFields .beBytes (bound 0).catWord [3] (asc "000000") = some ([(3, .int 0)], []) ∧
      parseField .beBytes ((bound 0).catWord 4) [] = none := by decide

/-- The example of R260 with TXBUF exactly as long as the message and one byte shorter; TXBUF one byte too short for the
MTI, and for the bitmap; a state without an MTI, with an invalid one, without a descriptor of key 0, and with a header
encoding that the MTI and the bitmap do not admit. -/
theorem witness_BuildOutcome :
    (∀ n ∈ [21, 22], (withCap n (withMti (asc "0210") (withField 39 (.text (asc "00")) (bound 0)))).bound = true ∧
      (withCap n (withMti (asc "0210") (withField 39 (.text (asc "00")) (bound 0)))).wire =
        some (asc "0210000000000200000000") ∧ (asc "0210000000000200000000").length = 22) ∧
      (buildMti ((bound 0).catWord 0) false true (mtiOfBytes (asc "0210")) = some (asc "0210") ∧
        (withCap 3 (bound 0)).params.bufCap < (asc "0210").length ∧
        (asc "0210").length ≤ (withCap 4 (bound 0)).params.bufCap) ∧
      (buildBitmap ((bound 0).catWord 1) (activated 0) = some (asc "0000000000000000") ∧
        (withCap 19 (bound 0)).params.bufCap < (asc "0210").length + (asc "0000000000000000").length) ∧
      (bound 0).wire = none ∧
      (∀ x ∈ [((0x8A000004 : Word), false, asc "0210"), (0x8A000004, true, asc "0290"), (0, true, asc "0210"),
          (0x8E000004, true, asc "0210")], buildMti x.1 false x.2.1 (mtiOfBytes x.2.2) = none) ∧
      (buildMtiFailure 0x8A000004 false false (mtiOfBytes (asc "0210"))).map (fun e => e.cause) = some .beMtiUnset ∧
      (buildMtiFailure 0x8E000004 false true (mtiOfBytes (asc "0210"))).map (fun e => e.cause) = some .seHdrEnc ∧
      (∀ d ∈ [0, 0x8C000008], buildBitmap (BitVec.ofNat 32 d) (activated 0) = none) ∧
      (buildWordFailure 0).map (fun e => e.cause) = some .seNoEntry ∧
      (buildWordFailure 0x8C000008).map (fun e => e.cause) = some .seHdrEnc := by decide

/-- TCAT_H0 and TCAT_H1 (R164): BUILD ends with SE_HDR_ENC and the key of the header. -/
theorem test_build_headers :
    after (exec .build { withMti (asc "0200") (bound 1) with catrom := romX }) ended =
        some (.specError, .seHdrEnc, some 0) ∧
      after (exec .build { withMti (asc "0200") (bound 2) with catrom := romX }) ended =
        some (.specError, .seHdrEnc, some 1) := by decide

/-- How a phase fails: kind, cause, bytes taken, ERRINFO. -/
def failure (e : HeaderFailure) : Kind × Cause × Nat × Word := (e.kind, e.cause, e.taken, e.errinfo)

/-- The causes of the MTI phase and of a bitmap word of DECODE, each at its edge: no entry, a header encoding that is not
admitted, one byte short, the examples of R207, a character that is not hexadecimal. -/
theorem witness_DecodeFails_causes :
    (∀ x ∈ [((0x00000000 : Word), asc "0200", (Kind.specError, Cause.seNoEntry, 0, (0 : Word))),
        (0x8E000004, asc "0200", (.specError, .seHdrEnc, 0, 0)), (0x8A000004, asc "020", (.parseError, .peUnderrun, 0, 0)),
        (0x8A000004, asc "0A00", (.parseError, .mtiNonnum, 4, 0x30413030)),
        (0x8A000004, asc "0000", (.parseError, .mtiClass, 4, 0x30303030)),
        (0x8C000004, [0x02], (.parseError, .peUnderrun, 0, 0)),
        (0x8C000004, [0x0A, 0x00], (.parseError, .mtiNonnum, 2, 0x30413030))],
      parseMti x.1 false x.2.1 = none ∧ (mtiFailure x.1 false x.2.1).map failure = some x.2.2) ∧
    (∀ x ∈ [((0x00000000 : Word), asc "0000000000000000", (Kind.specError, Cause.seNoEntry, 0, (0 : Word))),
        (0x8C000008, asc "0000000000000000", (.specError, .seHdrEnc, 0, 0)),
        (0xBA000008, asc "000000000000000", (.parseError, .peUnderrun, 0, 0)),
        (0xBA000008, asc "000000000000000G", (.parseError, .peBitmapHex, 16, 0)),
        (0xBE000008, [0, 0, 0, 0, 0, 0, 0], (.parseError, .peUnderrun, 0, 0))],
      parseWord x.1 x.2.1 = none ∧ (wordFailure x.1 x.2.1).map failure = some x.2.2) := by decide

/-- A numeric field with a number, and with a text that is not numeric. -/
theorem witness_BuildThenDecode :
    catCheck (bound 0).catrom (bound 0).catsel = none ∧
      (∃ t, exec .build (withMti (asc "0200") (withField 3 (.int 12) (bound 0))) = .next t ∧ t.kind = .ok) ∧
      readBack ((bound 0).catWord 3) (asc "000012") = some (.int 12) ∧
      (∃ t, exec .build (withMti (asc "0200") (withField 3 (.text (asc "1A")) (bound 0))) = .next t ∧ t.kind = .ok) ∧
      fieldText ((bound 0).catWord 3) (.text (asc "1A")) = some (asc "00001A") ∧
      readBack ((bound 0).catWord 3) (asc "00001A") = none :=
  ⟨by decide, next_of_after (by decide), by decide, next_of_after (by decide),
    by decide, by decide⟩

/-- Two framers with the same bytes received and another message, another RXBUF behind them and another TXBUF. -/
theorem witness_DecodeDependsOnlyOnInput :
    ((withRx (asc "0200") (bound 0)).received =
        ({ withMti (asc "0800") (withField 2 (.int 1) (bound 0)) with
          rxbuf := memWriteRange [] 0 (asc "0200XYZ"), rxlen := 4, txlen := 3 } : State).received) ∧
      (∃ t, exec .decode (withRx (asc "0200") (bound 0)) = .next t ∧ t.kind = .parseError) ∧
      ∃ t, exec .decode { withMti (asc "0800") (withField 2 (.int 1) (bound 0)) with
          rxbuf := memWriteRange [] 0 (asc "0200XYZ"), rxlen := 4, txlen := 3 } = .next t ∧ t.kind = .parseError :=
  ⟨by decide, next_of_after (by decide), next_of_after (by decide)⟩

theorem witness_SequencerAgrees : (bound 0).bound = true ∧ (bound 0).host = [] := by decide

theorem witness_EveryCommandEnds : Instr.decode.format = .c ∧ ∃ t, exec .decode (bound 0) = .next t ∧ t.busy = false :=
  ⟨rfl, next_of_after (by decide)⟩

end Sys2Proof.Tests
end

section
/-! The invariant in parts. The clauses of `State.Inv` fall into the data of the framer (`DataOk`), the report in STATUS
(`ReportOk`), and what holds in the middle of a command (`Active`) and of a field (`InField`); how the parts make up the
invariant again; and the rules of the shared operations: each end of a command, and each access primitive, from data that
are in order. -/

namespace Sys2Proof.Machine

variable {s : State}

/-- The clauses of `State.Inv` about the buffers, the slots, the counters, the stored MTI and the binding: those that
say nothing about PHASE, BUSY, STATUS and the latches. -/
structure State.DataOk (s : State) : Prop where
  rxWf : MemoryWf s.rxbuf
  txWf : MemoryWf s.txbuf
  opWf : MemoryWf s.opbuf
  resWf : MemoryWf s.resbuf
  valsWf : SparseWf Value.absent s.vals
  valsKeys : ∀ p ∈ s.vals, 2 ≤ p.1 ∧ p.1 ≤ 128
  rxlenCap : s.rxlen ≤ s.params.bufCap
  txlenCap : s.txlen ≤ s.params.bufCap
  oplenCap : s.oplen ≤ s.params.bufCap
  reslenCap : s.reslen ≤ s.params.bufCap
  cursorCap : s.cursor ≤ s.params.bufCap
  mtiLegal : s.mtiValid = true → mtiCheck (mtiBytes s.mti) false = none
  boundChecked : s.bound = true → s.catsel ≠ 3 ∧ catCheck s.catrom s.catsel = none

/-- The clauses of `State.Inv` about STATUS: a kind, a cause and a key that go together (R341, R342). -/
structure ReportOk (k : Kind) (c : Cause) (key : Option Nat) : Prop where
  legal : statusLegal k c = true
  okKey : k = .ok → key = none
  keyRange : ∀ n, key = some n → n ≤ 128

/-- A framer in the middle of a command: what `State.Inv` says of it, the phase and the latches apart. -/
structure State.Active (s : State) : Prop extends State.DataOk s where
  report : ReportOk s.kind s.cause s.ekey
  busy : s.busy = true
  running : s.running ≠ .none
  bound : s.bound = true
  results : s.reslen = 0 ∧ s.resval = 0 ∧ s.errinfo = 0

/-- A framer in the middle of a field with the descriptor `d`, on the path `r`; nothing is said of its stage. -/
structure State.InField (s : State) (r : Running) (d : Word) : Prop extends State.Active s where
  path : s.running = r
  phase : s.phase = .field
  field : 2 ≤ s.fidx ∧ s.fidx ≤ 128 ∧ presBit s.pres s.fidx = true
  latched : s.desc = d
  fromCatalog : d = s.catWord s.fidx ∧ descV d = true

/-! ### From the invariant to its parts -/

theorem State.Inv.dataOk (h : s.Inv) : s.DataOk := { h with }

theorem State.Inv.report (h : s.Inv) : ReportOk s.kind s.cause s.ekey := ⟨h.statusOk, h.okKey, h.keyRange⟩

theorem State.Inv.active (h : s.Inv) (hb : s.busy = true) : s.Active :=
  { h.dataOk with
    report := h.report
    busy := hb
    running := fun hr => by simp [h.idleRunning.2 hr] at hb
    bound := h.busyBound hb
    results := h.busyResults hb }

/-- A latched stage: the framer is busy in a field, on the stage's path. -/
theorem State.Inv.inField (h : s.Inv) {st : DStage} (hs : s.stage = some st) :
    s.InField (runningOfStage st) s.desc := by
  have hst : s.stage ≠ none := by simp [hs]
  have hb : s.busy = true := by
    by_contra hb
    exact hst (h.idleLatches (by simpa using hb)).1
  exact { h.active hb with
    path := h.stagePath st hs
    phase := h.stageField hst
    field := h.fieldPresent (h.stageField hst)
    latched := rfl
    fromCatalog := h.stageDesc hst }

/-! ### From the parts to the invariant -/

/-- An idle framer with empty latches. -/
theorem State.DataOk.inv_of_idle (h : s.DataOk) (hr : ReportOk s.kind s.cause s.ekey) (hb : s.busy = false)
    (hp : s.phase = .idle) (hn : s.running = .none) (hl : s.stage = none ∧ s.desc = 0 ∧ s.len = 0 ∧ s.txt = []) :
    s.Inv :=
  { h with
    idlePhase := by simp [hb, hp]
    idleRunning := by simp [hb, hn]
    busyBound := by simp [hb]
    busyResults := by simp [hb]
    fieldPresent := by simp [hp]
    idleLatches := fun _ => hl
    stageField := by simp [hl.1]
    stagePath := by simp [hl.1]
    stageDesc := by simp [hl.1]
    prefixVar := by simp [hl.1]
    valueLen := by simp [hl.1]
    statusOk := hr.legal
    okKey := hr.okKey
    keyRange := hr.keyRange }

/-- A busy framer with no stage latched. -/
theorem State.Active.inv_of_unstaged (h : s.Active) (hp : s.phase ≠ .idle) (hs : s.stage = none)
    (hf : s.phase = .field → 2 ≤ s.fidx ∧ s.fidx ≤ 128 ∧ presBit s.pres s.fidx = true) : s.Inv :=
  { h with
    idlePhase := by simp [h.busy, hp]
    idleRunning := by simp [h.busy, h.running]
    busyBound := fun _ => h.bound
    busyResults := fun _ => h.results
    fieldPresent := hf
    idleLatches := by simp [h.busy]
    stageField := by simp [hs]
    stagePath := by simp [hs]
    stageDesc := by simp [hs]
    prefixVar := by simp [hs]
    valueLen := by simp [hs]
    statusOk := h.report.legal
    okKey := h.report.okKey
    keyRange := h.report.keyRange }

/-- A busy framer at a stage of a field. -/
theorem State.InField.inv_of_stage {st : DStage} {d : Word} (h : s.InField (runningOfStage st) d)
    (hs : s.stage = some st) (hx : st = .bpfx → descLdisc d ≠ 0)
    (hv : st = .dval → 1 ≤ s.len ∧ s.len ≤ descEffmax d) : s.Inv :=
  { h with
    idlePhase := by simp [h.busy, h.phase]
    idleRunning := by simp [h.busy, h.running]
    busyBound := fun _ => h.bound
    busyResults := fun _ => h.results
    fieldPresent := fun _ => h.field
    idleLatches := by simp [h.busy]
    stageField := fun _ => h.phase
    stagePath := fun st' h' => Option.some.inj (hs.symm.trans h') ▸ h.path
    stageDesc := fun _ => h.latched ▸ h.fromCatalog
    prefixVar := fun h' => h.latched ▸ hx (Option.some.inj (hs.symm.trans h'))
    valueLen := fun h' => h.latched ▸ hv (Option.some.inj (hs.symm.trans h'))
    statusOk := h.report.legal
    okKey := h.report.okKey
    keyRange := h.report.keyRange }

/-! ### STATUS of an ended command -/

theorem reportOk_noKey {k : Kind} {c : Cause} (h : statusLegal k c = true) : ReportOk k c none :=
  ⟨h, fun _ => rfl, nofun⟩

theorem reportOk_key {k : Kind} {c : Cause} {n : Nat} (h : statusLegal k c = true) (hk : k ≠ .ok) (hn : n ≤ 128) :
    ReportOk k c (some n) :=
  ⟨h, fun e => absurd e hk, fun _ e => Option.some.inj e ▸ hn⟩

/-! ### The ends of a command -/

/-- A `raise` ends a command in a state that meets the invariant (R340). -/
theorem State.DataOk.inv_raise (h : s.DataOk) {k : Kind} {c : Cause} {key : Option Nat} (hr : ReportOk k c key) :
    (s.raise k c key).Inv := by
  have hd : (s.raise k c key).DataOk :=
    { h with
      reslenCap := Nat.zero_le _
      txlenCap := by
        rw [State.raise_txlen]
        split
        · exact Nat.zero_le _
        · exact h.txlenCap }
  exact hd.inv_of_idle hr rfl rfl rfl ⟨rfl, rfl, rfl, rfl⟩

/-- A normal end does so too. -/
theorem State.DataOk.inv_finish (h : s.DataOk) : s.finish.Inv :=
  State.DataOk.inv_of_idle { h with } (reportOk_noKey rfl) rfl rfl rfl ⟨rfl, rfl, rfl, rfl⟩

theorem State.DataOk.inv_scalarDone (h : s.DataOk) (rv : Word) : (scalarDone rv s).Inv :=
  State.DataOk.inv_finish { h with reslenCap := Nat.zero_le _ }

/-! ### The MTI validator -/

/-- Each cause that the validator answers goes with a parse error and with a rejection (R207, R208). -/
theorem mtiCheck_cause {t : Bytes} {b : Bool} {c : Cause} (h : mtiCheck t b = some c) :
    statusLegal .parseError c = true ∧ statusLegal .reject c = true := by
  simp only [mtiCheck] at h
  split_ifs at h <;> cases h <;> decide

/-- The texts that the validator passes (R202 to R204). -/
theorem mtiCheck_eq_none {t : Bytes} {b : Bool} : mtiCheck t b = none ↔
    (t.length = 4 ∧ isNum t = true) ∧ (b = true → digitVal (t.getD 1 0) ≠ 0 ∧ digitVal (t.getD 3 0) ≤ 5) ∧
      versionLegal (digitVal (t.getD 0 0)) = true ∧ (1 ≤ digitVal (t.getD 1 0) ∧ digitVal (t.getD 1 0) ≤ 9) ∧
      digitVal (t.getD 2 0) ≤ 7 ∧ digitVal (t.getD 3 0) ≤ 5 := by
  simp only [mtiCheck]
  generalize digitVal (t.getD 0 0) = d0, digitVal (t.getD 1 0) = d1, digitVal (t.getD 2 0) = d2,
    digitVal (t.getD 3 0) = d3
  split
  · next hn => exact iff_of_false nofun fun ⟨⟨hl, hd⟩, _⟩ => by simp [hl, hd] at hn
  · split_ifs <;> simp_all

theorem mtiCheck_length {t : Bytes} {b : Bool} (h : mtiCheck t b = none) : t.length = 4 := (mtiCheck_eq_none.1 h).1.1

/-- A text that is legal under STRICT is legal without it (R204). -/
theorem mtiCheck_relax {t : Bytes} {b : Bool} (h : mtiCheck t b = none) : mtiCheck t false = none := by
  obtain ⟨hn, -, hd⟩ := mtiCheck_eq_none.1 h
  exact mtiCheck_eq_none.2 ⟨hn, nofun, hd⟩

theorem mtiBytes_mtiOfBytes {t : Bytes} (h : t.length = 4) : mtiBytes (mtiOfBytes t) = t := by
  obtain ⟨a, b, c, d, rfl⟩ := List.length_eq_four.1 h
  rfl

/-- A text that the validator passes is a legal MTI once it is stored. -/
theorem mtiCheck_stored {t : Bytes} {b : Bool} (h : mtiCheck t b = none) :
    mtiCheck (mtiBytes (mtiOfBytes t)) false = none := by
  rw [mtiBytes_mtiOfBytes (mtiCheck_length h)]
  exact mtiCheck_relax h

theorem State.DataOk.storeMti (h : s.DataOk) {t : Bytes} {b : Bool} (hc : mtiCheck t b = none) :
    (s.storeMti t).DataOk := { h with mtiLegal := fun _ => mtiCheck_stored hc }

/-! ### The catalog check -/

theorem checkWord_cause {d : Word} {c : Cause} (h : checkWord d = some c) : statusLegal .specError c = true := by
  unfold checkWord at h
  split at h
  · cases h; rfl
  split at h
  · cases h; rfl
  split at h
  · cases h; rfl
  split_ifs at h <;> cases h <;> rfl

/-- A catalog that fails the check fails it with a specification error at one of its keys (R160). -/
theorem catCheck_cause {rom : CatRom} {cat : BitVec 2} {c : Cause} {k : Nat} (h : catCheck rom cat = some (c, k)) :
    statusLegal .specError c = true ∧ k ≤ 128 := by
  obtain ⟨j, hj, hc⟩ := List.exists_of_findSome?_eq_some h
  unfold checkKey at hc
  split at hc
  · obtain ⟨c', hw, he⟩ := Option.map_eq_some_iff.1 hc
    cases he
    exact ⟨checkWord_cause hw, Nat.le_of_lt_succ (List.mem_range.1 hj)⟩
  · cases hc

/-! ### Computations that may raise -/

/-- The computation goes on in a state of which `P` holds, or it has raised and the invariant holds. -/
def Res.Safe {α : Type} (P : α → State → Prop) : Res α → Prop
  | .val a t => P a t
  | .stop t => t.Inv

theorem Res.Safe.bind {α β : Type} {P : α → State → Prop} {Q : β → State → Prop} {r : Res α}
    {f : α → State → Res β} (h : r.Safe P) (hf : ∀ a t, P a t → (f a t).Safe Q) : (r.bind f).Safe Q := by
  cases r with
  | val a t => exact hf a t h
  | stop t => exact h

theorem Res.Safe.andThen {α : Type} {P : α → State → Prop} {r : Res α} {f : α → State → State} (h : r.Safe P)
    (hf : ∀ a t, P a t → (f a t).Inv) : (r.andThen f).Inv := by
  cases r with
  | val a t => exact hf a t h
  | stop t => exact h

theorem Res.Safe.mono {α : Type} {P Q : α → State → Prop} {r : Res α} (h : r.Safe P)
    (hpq : ∀ a t, P a t → Q a t) : r.Safe Q := by
  cases r with
  | val a t => exact hpq a t h
  | stop t => exact h

theorem State.DataOk.safe_fail {α : Type} {P : α → State → Prop} (h : s.DataOk) {k : Kind} {c : Cause}
    {key : Option Nat} (hr : ReportOk k c key) : (Res.fail (α := α) s k c key).Safe P := h.inv_raise hr

theorem safe_catLookup (h : s.DataOk) {k : Nat} (hk : k ≤ 128) : (catLookup k s).Safe fun _ t => t = s := by
  unfold catLookup
  split
  · rfl
  · exact h.safe_fail (reportOk_key rfl nofun hk)

theorem safe_take (h : s.DataOk) (n : Nat) {k : Nat} (hk : k ≤ 128) :
    (take n k s).Safe fun _ t => t = { s with cursor := s.cursor + n } ∧ s.cursor + n ≤ s.params.bufCap := by
  unfold take
  split
  · exact h.safe_fail (reportOk_key rfl nofun hk)
  · next hn => exact ⟨rfl, (Nat.not_lt.1 hn).trans h.rxlenCap⟩

theorem safe_emit (h : s.DataOk) (v : Bytes) :
    (emit v s).Safe fun _ t =>
      t = { s with txbuf := memWriteRange s.txbuf s.txlen v, txlen := s.txlen + v.length } ∧
        s.txlen + v.length ≤ s.params.bufCap := by
  unfold emit
  split
  · exact h.safe_fail (reportOk_noKey rfl)
  · next hn => exact ⟨rfl, Nat.not_lt.1 hn⟩

theorem State.DataOk.inv_resultDone (h : s.DataOk) (v : Bytes) (rv : Word) : (resultDone v rv s).Inv := by
  unfold resultDone putResult
  split
  · exact h.inv_raise (reportOk_noKey rfl)
  · next hn =>
    exact State.DataOk.inv_finish { h with resWf := h.resWf.writeRange 0 v, reslenCap := Nat.not_lt.1 hn }

/-- A write of one of the slots VAL[2..128]. -/
theorem State.DataOk.setVal (h : s.DataOk) {f : Nat} (hf : 2 ≤ f ∧ f ≤ 128) (v : Value) : (s.setVal f v).DataOk :=
  { h with
    valsWf := h.valsWf.set f v
    valsKeys := fun p hp => by
      rcases mem_sparseSet hp with rfl | hp
      · exact hf
      · exact h.valsKeys p hp }

/-- ERRINFO may hold anything between the frame and the end of a command. -/
theorem State.DataOk.withErrinfo (h : s.DataOk) (n : Word) : { s with errinfo := n : State }.DataOk := { h with }

theorem State.DataOk.begin (h : s.DataOk) (r : Running) : (s.begin r).DataOk := { h with reslenCap := Nat.zero_le _ }

end Sys2Proof.Machine

end

section
/-! The invariant of every step (O3, O2): the commands from an idle framer, the header phases, the stages of a field,
then the sequencer and the host's actions, each by the rules of the shared operations. -/

namespace Sys2Proof.Machine

variable {s : State}

/-! ### The commands (R300 to R311, R140 to R145, R170 to R175) -/

theorem frameCheck_cause {nb ko bo : Bool} {k : Kind} {c : Cause} (h : frameCheck nb ko bo s = some (k, c)) :
    statusLegal k c = true := by
  unfold frameCheck at h
  split_ifs at h <;> cases h <;> rfl

/-- A frame that finds nothing to refuse (R300, checks 2 to 4). -/
theorem frameCheck_eq_none {nb ko bo : Bool} :
    frameCheck nb ko bo s = none ↔ (nb = true → s.bound = true) ∧ ko = true ∧ bo = true := by
  cases nb <;> cases hb : s.bound <;> cases ko <;> cases bo <;> simp [frameCheck, hb]

/-- A command in the frame keeps the invariant when its own rule does so from every state whose data are in order. -/
theorem State.DataOk.inv_frame (h : s.DataOk) {nb ko bo : Bool} {rule : State → State}
    (hrule : ko = true → ∀ t, t.DataOk → (rule t).Inv) : (frame nb ko bo s rule).Inv := by
  unfold frame
  split
  · next hc => exact (h.begin .none).inv_raise (reportOk_noKey (frameCheck_cause hc))
  · next hc => exact hrule (frameCheck_eq_none.1 hc).2.1 _ (h.begin .none)

/-- INIT binds a catalog only when the check passes (R301, R161). -/
theorem State.DataOk.inv_initRule (h : s.DataOk) (cat : BitVec 2) (strict : Bool) : (initRule cat strict s).Inv := by
  have h0 : { s with
      mtiValid := false, pres := 0, vals := [], strict := strict, catsel := cat, bound := false : State }.DataOk :=
    { h with valsWf := ⟨.nil, nofun⟩, valsKeys := nofun, mtiLegal := nofun, boundChecked := nofun }
  simp only [initRule]
  split
  · exact h0.inv_raise (reportOk_noKey rfl)
  next hcat =>
  split
  · next hc => exact h0.inv_raise (reportOk_key (catCheck_cause hc).1 nofun (catCheck_cause hc).2)
  · next hc => exact State.DataOk.inv_finish { h0 with boundChecked := fun _ => ⟨hcat, hc⟩ }

/-- SET_MTI stores a text only when the validator passes it (R208). -/
theorem State.DataOk.safe_mtiSet (h : s.DataOk) (t : Bytes) : (mtiSet t s).Safe fun _ u => u.DataOk := by
  unfold mtiSet
  split
  · exact (h.withErrinfo _).safe_fail (reportOk_key rfl nofun (Nat.zero_le _))
  split
  · exact (h.withErrinfo _).safe_fail (reportOk_key rfl nofun (Nat.zero_le _))
  split
  · next hc => exact (h.withErrinfo _).safe_fail (reportOk_key (mtiCheck_cause hc).2 nofun (Nat.zero_le _))
  · next hc => exact h.storeMti hc

/-- SET_FIELD_TXT and SET_FIELD_INT (R311). -/
theorem State.DataOk.inv_setField (h : s.DataOk) {f : Nat} (hf : 2 ≤ f ∧ f ≤ 128) (v : Value) :
    (setField f v s).Inv := by
  refine (safe_catLookup h hf.2).andThen fun e t ht => ?_
  subst ht
  split
  · exact h.inv_raise (reportOk_key rfl nofun hf.2)
  · exact State.DataOk.inv_finish { h.setVal hf v with }

theorem State.DataOk.inv_introspect (h : s.DataOk) (key : BitVec 8) (view : FieldSpec → Word) :
    (introspect key s view).Inv :=
  h.inv_frame fun hk _ ht =>
    (safe_catLookup ht ((catKeyOk_iff key).1 hk)).andThen fun _ _ hu => hu ▸ ht.inv_scalarDone _

theorem State.DataOk.inv_codecCommand (h : s.DataOk) (f : Bytes → Option (Bytes × Word)) :
    (codecCommand s f).Inv := by
  refine h.inv_frame fun _ t ht => ?_
  split
  · exact ht.inv_raise (reportOk_noKey rfl)
  · exact ht.inv_resultDone _ _

theorem inv_execGetMti (h : s.DataOk) {t : State} (ht : execGetMti s = .next t) : t.Inv := by
  cases ht
  refine h.inv_frame fun _ u hu => ?_
  split
  · exact hu.inv_resultDone _ _
  · exact hu.inv_scalarDone _

theorem inv_execSetFieldInt (h : s.DataOk) {key : BitVec 8} {t : State} (ht : execSetFieldInt key s = .next t) :
    t.Inv := by
  cases ht
  refine h.inv_frame fun hk u hu => ?_
  have hf := (fieldKeyOk_iff key).1 hk
  split
  · exact hu.inv_raise (reportOk_key rfl nofun hf.2)
  · exact hu.inv_setField hf _

theorem inv_execGetField (h : s.DataOk) {key : BitVec 8} {t : State} (ht : execGetField key s = .next t) :
    t.Inv := by
  cases ht
  refine h.inv_frame fun _ u hu => ?_
  split
  · exact hu.inv_scalarDone _
  · exact hu.inv_resultDone _ _
  · exact hu.inv_resultDone _ _

/-! ### The header phases (R207, R210, R182, R188) -/

/-- A framer in the middle of a command, before the first field: no stage is latched. -/
structure State.Header (s : State) : Prop extends State.Active s where
  stage : s.stage = none

/-- A part of a header phase leaves the framer in the header, or it has raised. -/
abbrev Res.InHeader {α : Type} (r : Res α) : Prop := r.Safe fun _ t => t.Header

theorem State.Header.fail {α : Type} (h : s.Header) {k : Kind} {c : Cause} {key : Nat}
    (hc : statusLegal k c = true) (hk : k ≠ .ok) (hn : key ≤ 128) : (Res.fail (α := α) s k c (some key)).InHeader :=
  h.safe_fail (reportOk_key hc hk hn)

/-- A failure that also reports a text in ERRINFO (R39). -/
theorem State.Header.failInfo {α : Type} (h : s.Header) {k : Kind} {c : Cause} {n : Word}
    (hc : statusLegal k c = true) (hk : k ≠ .ok) :
    (Res.fail (α := α) { s with errinfo := n } k c (some 0)).InHeader :=
  (h.withErrinfo n).safe_fail (reportOk_key hc hk (Nat.zero_le _))

theorem State.Header.lookup (h : s.Header) {k : Nat} (hk : k ≤ 128) : (catLookup k s).InHeader :=
  (safe_catLookup h.toDataOk hk).mono fun _ _ e => e ▸ h

theorem State.Header.take (h : s.Header) (n : Nat) {k : Nat} (hk : k ≤ 128) : (take n k s).InHeader := by
  refine (safe_take h.toDataOk n hk).mono ?_
  rintro _ _ ⟨rfl, hc⟩
  exact { h with cursorCap := hc }

theorem State.Header.emit (h : s.Header) (v : Bytes) : (emit v s).InHeader := by
  refine (safe_emit h.toDataOk v).mono ?_
  rintro _ _ ⟨rfl, hc⟩
  exact { h with txWf := h.txWf.writeRange _ _, txlenCap := hc }

theorem State.Header.withPres (h : s.Header) (p : BitVec 128) : { s with pres := p : State }.Header := { h with }

theorem State.Header.mtiRead (h : s.Header) : (mtiRead s).InHeader := by
  refine (h.lookup (Nat.zero_le _)).bind fun e t ht => ?_
  split
  · exact (ht.take 2 (Nat.zero_le _)).bind fun _ _ hu => hu
  · exact ht.take 4 (Nat.zero_le _)
  · exact ht.fail rfl nofun (Nat.zero_le _)

theorem State.Header.mtiDecode (h : s.Header) : (mtiDecode s).InHeader := by
  refine h.mtiRead.bind fun t u hu => ?_
  split
  · next hc => exact hu.failInfo (mtiCheck_cause hc).1 nofun
  · next hc => exact { hu with mtiLegal := fun _ => mtiCheck_stored hc }

theorem State.Header.mtiEmit (h : s.Header) : (mtiEmit s).InHeader := by
  refine (h.lookup (Nat.zero_le _)).bind fun e t ht => ?_
  split
  · exact ht.fail rfl nofun (Nat.zero_le _)
  split
  · exact ht.failInfo rfl nofun
  split
  · split
    · exact ht.emit _
    · exact ht.failInfo rfl nofun
  · exact ht.emit _
  · exact ht.fail rfl nofun (Nat.zero_le _)

theorem State.Header.readWord (h : s.Header) : (readWord s).InHeader := by
  refine (h.lookup (by decide)).bind fun e t ht => ?_
  split
  · exact (ht.take 8 (by decide)).bind fun _ _ hu => hu
  · refine (ht.take 16 (by decide)).bind fun _ u hu => ?_
    split
    · exact hu
    · exact hu.fail rfl nofun (by decide)
  · exact ht.fail rfl nofun (by decide)

theorem State.Header.bitmapDecode (h : s.Header) : (bitmapDecode s).InHeader := by
  refine h.readWord.bind fun w t ht => ?_
  split
  · exact (ht.withPres _).readWord.bind fun _ _ hu => hu.withPres _
  · exact ht.withPres _

theorem header_activate (h : s.Header) : (activate s).Header := by
  unfold activate
  split
  · exact h
  · exact h.withPres _

theorem State.Header.writeWord (h : s.Header) (w : BitmapWord) : (writeWord w s).InHeader := by
  refine (h.lookup (by decide)).bind fun e t ht => ?_
  split
  · exact ht.emit _
  · exact ht.emit _
  · exact ht.fail rfl nofun (by decide)

theorem State.Header.bitmapEncode (h : s.Header) : (bitmapEncode s).InHeader := by
  refine ((header_activate h).writeWord _).bind fun _ t ht => ?_
  split
  · exact ht.writeWord _
  · exact ht

/-! ### From field to field (R31) -/

/-- The walk to the next field ends in a present data field, or in DONE. -/
theorem State.Active.inv_nextField (h : s.Active) {f : Nat} (hf : 1 ≤ f) : (s.nextField f).Inv := by
  obtain ⟨he, hgo⟩ := nextField_spec s f
  rw [he]
  generalize s.nextField f = t at hgo
  have ha : { s with phase := t.phase, fidx := t.fidx, stage := none : State }.Active := { h with }
  rcases hgo with ⟨g, hfg, hg, hp, -, hph, hfi⟩ | ⟨-, hph, -⟩
  · exact ha.inv_of_unstaged (by simp [hph]) rfl fun _ => by simp [hfi, hg, hp]; omega
  · exact ha.inv_of_unstaged (by simp [hph]) rfl (by simp [hph])

section Field

variable {r : Running} {d : Word}

theorem State.InField.inv_storeField (h : s.InField r d) (v : Value) : (s.storeField v).Inv := by
  obtain ⟨h2, h128, -⟩ := h.field
  have ha : (s.setVal s.fidx v).Active := { h.setVal ⟨h2, h128⟩ v, h with }
  exact ha.inv_nextField (by omega)

/-- A stage that raises, the field's number being the key. -/
theorem State.InField.inv_raise (h : s.InField r d) {k : Kind} {c : Cause} (hc : statusLegal k c = true)
    (hk : k ≠ .ok) : (s.raise k c (some s.fidx)).Inv :=
  h.toDataOk.inv_raise (reportOk_key hc hk h.field.2.1)

/-- A stage that takes bytes keeps the invariant when the rest of it does so from every state of the same field. -/
theorem State.InField.inv_take (h : s.InField r d) {n : Nat} {g : Bytes → State → State}
    (hg : ∀ bs t, t.InField r d → (g bs t).Inv) : ((take n s.fidx s).andThen g).Inv := by
  refine (safe_take h.toDataOk n h.field.2.1).andThen ?_
  rintro bs _ ⟨rfl, hc⟩
  exact hg bs _ { h with cursorCap := hc }

/-- The same for a stage that emits bytes; the number of the field stays too. -/
theorem State.InField.inv_emit (h : s.InField r d) {v : Bytes} {g : Unit → State → State}
    (hg : ∀ t, t.InField r d → t.fidx = s.fidx → (g () t).Inv) : ((emit v s).andThen g).Inv := by
  refine (safe_emit h.toDataOk v).andThen ?_
  rintro _ _ ⟨rfl, hc⟩
  exact hg _ { h with txWf := h.txWf.writeRange _ _, txlenCap := hc } rfl

/-! ### The decode path (R223 to R238) -/

theorem State.InField.inv_lengthKnown (h : s.InField .decode d) (n : Nat) : (lengthKnown d n s).Inv := by
  unfold lengthKnown
  split
  · exact h.inv_raise rfl nofun
  next hmax =>
  split
  · exact h.inv_storeField _
  next hzero =>
  have hd : { s with len := n, stage := some .dval : State }.InField (runningOfStage .dval) d := { h with }
  exact hd.inv_of_stage rfl nofun fun _ => ⟨Nat.pos_of_ne_zero hzero, Nat.not_lt.1 hmax⟩

theorem State.InField.inv_lengthDigits (h : s.InField .decode d) (t : Bytes) : (lengthDigits d t s).Inv := by
  unfold lengthDigits
  split
  · exact h.inv_lengthKnown _
  · exact h.inv_raise rfl nofun

theorem State.InField.inv_valueDigits (h : s.InField r d) (t : Bytes) : (valueDigits t s).Inv := by
  unfold valueDigits
  split
  · exact h.inv_storeField _
  · exact h.inv_raise rfl nofun

/-- The length stage (R224 to R229). -/
theorem State.InField.inv_dlen (h : s.InField .decode d) {i : Instr} (hi : decodeMicro .dlen d = .ok i) :
    ∃ t, microOp i s = some (.next t) ∧ t.Inv := by
  obtain ⟨w, e | e | e | e⟩ := microOp_dlen (s := s) hi <;> refine ⟨_, e, ?_⟩
  · exact h.inv_lengthKnown _
  · exact h.inv_take fun _ _ ht => ht.inv_lengthDigits _
  · exact h.inv_take fun _ _ ht => ht.inv_lengthDigits _
  · unfold lengthBin
    split
    · exact h.inv_raise rfl nofun
    · exact h.inv_take fun _ _ ht => ht.inv_lengthKnown _

/-- The value stage (R234 to R238). -/
theorem State.InField.inv_dval (h : s.InField .decode d) {i : Instr} (hi : decodeMicro .dval d = .ok i) :
    ∃ t, microOp i s = some (.next t) ∧ t.Inv := by
  rcases microOp_dval (s := s) hi with e | e | e | e | e <;> refine ⟨_, e, ?_⟩
  · exact h.inv_take fun _ _ ht => ht.inv_valueDigits _
  · exact h.inv_take fun _ _ ht => ht.inv_storeField _
  · exact h.inv_take fun _ _ ht => ht.inv_valueDigits _
  · exact h.inv_take fun _ _ ht => ht.inv_storeField _
  · exact h.inv_take fun _ _ ht => ht.inv_storeField _

/-! ### The build path (R263 to R282) -/

/-- The text and the length of a field are known, and a later stage of the build path follows. -/
theorem State.InField.inv_toStage (h : s.InField .build d) {st : DStage} (hr : runningOfStage st = .build)
    (hx : st = .bpfx → descLdisc d ≠ 0) (t : Bytes) (n : Nat) :
    { s with txt := t, len := n, stage := some st : State }.Inv := by
  have hd : { s with txt := t, len := n, stage := some st : State }.InField (runningOfStage st) d :=
    { h with path := hr ▸ h.path }
  exact hd.inv_of_stage rfl hx fun e => by simp [e, runningOfStage] at hr

theorem State.InField.inv_fixedFormat (h : s.InField .build d) (pad : Bytes → Bytes) : (fixedFormat d pad s).Inv := by
  unfold fixedFormat
  split
  · exact h.inv_raise rfl nofun
  unfold fixedReady
  split
  · exact h.inv_raise rfl nofun
  split
  · exact h.inv_raise rfl nofun
  · exact h.inv_toStage (st := .bemit) rfl nofun _ _

theorem State.InField.inv_formatVar (h : s.InField .build d) (hx : descLdisc d ≠ 0) : (formatVar d s).Inv := by
  unfold formatVar varReady
  split
  · exact h.inv_raise rfl nofun
  split
  · exact h.inv_raise rfl nofun
  · exact h.inv_toStage rfl (fun _ => hx) _ _

theorem State.InField.inv_emitPrefix (h : s.InField .build d) (v : Bytes) : (emitPrefix v s).Inv :=
  h.inv_emit fun t ht _ => ht.inv_toStage (st := .bemit) rfl nofun t.txt t.len

theorem State.InField.inv_emitValue (h : s.InField .build d) (v : Bytes) : (emitValue v s).Inv :=
  h.inv_emit fun _ ht hf => ht.inv_nextField (by have := h.field.1; omega)

/-- The format stage (R264 to R267, R272, R273). -/
theorem State.InField.inv_bfmt (h : s.InField .build d) {i : Instr} (hi : decodeMicro .bfmt d = .ok i) :
    ∃ t, microOp i s = some (.next t) ∧ t.Inv := by
  rcases microOp_bfmt (s := s) hi with ⟨pad, e⟩ | ⟨e, hx⟩
  · exact ⟨_, e, h.inv_fixedFormat pad⟩
  · exact ⟨_, e, h.inv_formatVar hx⟩

/-- The stage of the length digits (R274 to R276). -/
theorem State.InField.inv_bpfx (h : s.InField .build d) {i : Instr} (hi : decodeMicro .bpfx d = .ok i) :
    ∃ t, microOp i s = some (.next t) ∧ t.Inv := by
  obtain ⟨w, e | e | e⟩ := microOp_bpfx (s := s) hi <;> refine ⟨_, e, ?_⟩
  · unfold prefixAscii
    split
    · exact h.inv_raise rfl nofun
    · exact h.inv_emitPrefix _
  · unfold prefixBcd
    split
    · exact h.inv_raise rfl nofun
    split
    · exact h.inv_emitPrefix _
    · exact h.inv_raise rfl nofun
  · unfold prefixBin
    split
    · exact h.inv_raise rfl nofun
    split
    · exact h.inv_raise rfl nofun
    · exact h.inv_emitPrefix _

/-- The emit stage (R280 to R282). -/
theorem State.InField.inv_bemit (h : s.InField .build d) {i : Instr} (hi : decodeMicro .bemit d = .ok i) :
    ∃ t, microOp i s = some (.next t) ∧ t.Inv := by
  rcases microOp_bemit (s := s) hi with e | ⟨v, e⟩ <;> refine ⟨_, e, ?_⟩
  · exact h.inv_emitValue _
  · unfold emitPacked
    split
    · exact h.inv_emitValue _
    · exact h.inv_raise rfl nofun

/-- The operation that a descriptor selects at a stage keeps the invariant. -/
theorem State.InField.inv_microOp {st : DStage} (h : s.InField (runningOfStage st) d) {i : Instr}
    (hi : decodeMicro st d = .ok i) : ∃ t, microOp i s = some (.next t) ∧ t.Inv := by
  cases st with
  | dlen => exact h.inv_dlen hi
  | dval => exact h.inv_dval hi
  | bfmt => exact h.inv_bfmt hi
  | bpfx => exact h.inv_bpfx hi
  | bemit => exact h.inv_bemit hi

end Field

/-! ### The sequencer -/

theorem State.Inv.fieldStage (h : s.Inv) {st : DStage} (hs : s.stage = some st) {t : State}
    (ht : fieldStage st s = .next t) : t.Inv := by
  have hf := h.inField hs
  unfold Machine.fieldStage at ht
  split at ht
  · next i hi =>
    obtain ⟨u, hu, hinv⟩ := hf.inv_microOp hi
    simp only [hu, Option.getD_some] at ht
    cases ht
    exact hinv
  · cases ht
    exact hf.inv_raise rfl nofun

/-- The descriptor of a field is latched with the stage of the running path (R223, R263). -/
theorem State.Inv.fetchDescriptor (h : s.Inv) (hb : s.busy = true) (hp : s.phase = .field) :
    (fetchDescriptor s).Inv := by
  have ha := h.active hb
  have hf := h.fieldPresent hp
  unfold Machine.fetchDescriptor
  split
  · next hv =>
    have hd (st : DStage) (hr : s.running = runningOfStage st) :
        { s with desc := s.catWord s.fidx, stage := some st : State }.InField (runningOfStage st)
          (s.catWord s.fidx) :=
      { ha with path := hr, phase := hp, field := hf, latched := rfl, fromCatalog := ⟨rfl, hv⟩ }
    split
    · next hr => exact (hd .bfmt hr).inv_of_stage rfl nofun nofun
    · next hr =>
      have hdec : s.running = .decode := by
        cases e : s.running with
        | none => exact absurd e ha.running
        | decode => rfl
        | build => exact absurd e hr
      exact (hd .dlen hdec).inv_of_stage rfl nofun nofun
  · exact ha.inv_raise (reportOk_key rfl nofun hf.2.1)

/-- A running framer outside the phase FIELD has no stage latched. -/
theorem State.Inv.header (h : s.Inv) (hb : s.busy = true) (hp : s.phase ≠ .field) : s.Header :=
  { h.active hb with stage := Classical.not_not.1 fun hs => hp (h.stageField hs) }

/-- START clears the message on the decode path and TXLEN on the build path (R221, R261). -/
theorem State.Inv.startPhase (h : s.Inv) (hb : s.busy = true) (hp : s.phase = .start) :
    (if s.running = .build then buildStart s else decodeStart s).Inv := by
  have hh := h.header hb (by simp [hp])
  obtain ⟨hl, hv, -⟩ := hh.results
  split
  · exact State.Active.inv_of_unstaged
      { hh with txlenCap := Nat.zero_le _, cursorCap := Nat.zero_le _, results := ⟨hl, hv, rfl⟩ } nofun hh.stage nofun
  · exact State.Active.inv_of_unstaged
      { hh with
        cursorCap := Nat.zero_le _, mtiLegal := nofun, valsWf := ⟨.nil, nofun⟩, valsKeys := nofun
        results := ⟨hl, hv, rfl⟩ } nofun hh.stage nofun

theorem State.Inv.mtiPhase (h : s.Inv) (hb : s.busy = true) (hp : s.phase = .mti) : (mtiPhase s).Inv := by
  have hh := h.header hb (by simp [hp])
  have hr : (if s.running = .build then mtiEmit s else mtiDecode s).InHeader := by
    split
    · exact hh.mtiEmit
    · exact hh.mtiDecode
  exact hr.andThen fun _ _ hu => State.Active.inv_of_unstaged { hu with } nofun hu.stage nofun

theorem State.Inv.bitmapPhase (h : s.Inv) (hb : s.busy = true) (hp : s.phase = .bitmap) : (bitmapPhase s).Inv := by
  have hh := h.header hb (by simp [hp])
  have hr : (if s.running = .build then bitmapEncode s else bitmapDecode s).InHeader := by
    split
    · exact hh.bitmapEncode
    · exact hh.bitmapDecode
  exact hr.andThen fun _ _ hu => hu.inv_nextField (Nat.le_refl 1)

/-- One step of the running sequencer keeps the invariant (R31). -/
theorem State.Inv.seqStep (h : s.Inv) (hb : s.busy = true) {t : State} (ht : seqStep s = .next t) : t.Inv := by
  unfold Machine.seqStep at ht
  cases hp : s.phase with
  | idle => rw [hp] at ht; cases ht; exact h.dataOk.inv_finish
  | start => rw [hp] at ht; cases ht; exact h.startPhase hb hp
  | mti => rw [hp] at ht; cases ht; exact h.mtiPhase hb hp
  | bitmap => rw [hp] at ht; cases ht; exact h.bitmapPhase hb hp
  | field =>
    simp only [hp] at ht
    split at ht
    · cases ht; exact h.fetchDescriptor hb hp
    · next hs => exact h.fieldStage hs ht
  | done => rw [hp] at ht; cases ht; exact h.dataOk.inv_scalarDone _

/-- The sequencer at work keeps the invariant, however many steps it takes. -/
theorem State.Inv.seqRun (h : s.Inv) (hb : s.busy = true) {n : Nat} {t : State} (ht : seqRun n s = .next t) :
    t.Inv := by
  induction n generalizing s with
  | zero => cases ht; exact h
  | succ n ih =>
    obtain ⟨u, hu⟩ := seqStep_next s
    have hinv := h.seqStep hb hu
    simp only [Machine.seqRun, hu] at ht
    split at ht
    · next hbu => exact ih hinv hbu ht
    · cases ht; exact hinv

theorem State.Inv.seqCommand (h : s.Inv) (hb : s.busy = false) {r : Running} (hr : r ≠ .none) {t : State}
    (ht : seqCommand r s = .next t) : t.Inv := by
  unfold Machine.seqCommand at ht
  split at ht
  · next hc =>
    cases ht
    exact (h.dataOk.begin r).inv_raise (reportOk_noKey (frameCheck_cause hc))
  · next hc =>
    have hbound := (frameCheck_eq_none.1 hc).1 rfl
    have ha : { s.begin r with phase := .start : State }.Active :=
      { h.dataOk.begin r with
        report := h.report, busy := rfl, running := hr, bound := hbound, results := ⟨rfl, rfl, rfl⟩ }
    exact (ha.inv_of_unstaged nofun (h.idleLatches hb).1 nofun).seqRun rfl ht

/-! ### Commands and host actions -/

theorem format_of_decodeCommand {w : Word} {i : Instr} (h : decodeCommand w = .ok i) : i.format = .c := by
  unfold decodeCommand at h
  split at h <;> cases h <;> rfl

/-- A command that an idle framer runs keeps the invariant. -/
theorem State.Inv.exec_command (h : s.Inv) (hb : s.busy = false) {i : Instr} (hi : i.format = .c) {t : State}
    (ht : exec i s = .next t) : t.Inv := by
  have hd := h.dataOk
  cases i with
  | init cat strict => cases ht; exact hd.inv_frame fun _ _ hu => hu.inv_initRule cat strict
  | decode => exact h.seqCommand hb (r := .decode) nofun ht
  | build => exact h.seqCommand hb (r := .build) nofun ht
  | setStrict arg => cases ht; exact hd.inv_frame fun _ _ hu => State.DataOk.inv_finish { hu with }
  | getStrict => cases ht; exact hd.inv_frame fun _ _ hu => hu.inv_scalarDone _
  | setMti =>
    cases ht
    exact hd.inv_frame fun _ u hu => (hu.safe_mtiSet u.operand).andThen fun _ _ hv => hv.inv_finish
  | getMti => exact inv_execGetMti hd ht
  | setBit key arg => cases ht; exact hd.inv_frame fun _ _ hu => State.DataOk.inv_finish { hu with }
  | getBit key => cases ht; exact hd.inv_frame fun _ _ hu => hu.inv_scalarDone _
  | setFieldTxt key =>
    cases ht
    exact hd.inv_frame fun hk _ hu => hu.inv_setField ((fieldKeyOk_iff key).1 hk) _
  | setFieldInt key => exact inv_execSetFieldInt hd ht
  | getField key => exact inv_execGetField hd ht
  | getDenc key => cases ht; exact hd.inv_introspect key _
  | getLdisc key => cases ht; exact hd.inv_introspect key _
  | getClass key => cases ht; exact hd.inv_introspect key _
  | getLenc key => cases ht; exact hd.inv_introspect key _
  | getMaxlen key => cases ht; exact hd.inv_introspect key _
  | getDesc key =>
    cases ht
    exact hd.inv_frame fun hk _ hu =>
      (safe_catLookup hu ((catKeyOk_iff key).1 hk)).andThen fun _ _ hv => hv ▸ hu.inv_resultDone _ _
  | bcdDecode => cases ht; exact hd.inv_codecCommand _
  | bcdEncode => cases ht; exact hd.inv_codecCommand _
  | bcdToInt => cases ht; exact hd.inv_codecCommand _
  | intToBcd => cases ht; exact hd.inv_codecCommand _
  | hexEncode => cases ht; exact hd.inv_codecCommand _
  | hexDecode => cases ht; exact hd.inv_codecCommand _
  | _ => cases hi

theorem State.Inv.runCommand (h : s.Inv) (hb : s.busy = false) {w : Word} {t : State}
    (ht : runCommand w s = .next t) : t.Inv := by
  unfold Machine.runCommand at ht
  split at ht
  · next hi => exact h.exec_command hb (format_of_decodeCommand hi) ht
  · cases ht
    exact (h.dataOk.begin .none).inv_raise (reportOk_noKey rfl)

theorem saturateLen_le (s : State) (v : Word) : saturateLen s v ≤ s.params.bufCap := Nat.min_le_right _ _

theorem State.Inv.writeRegIdle (h : s.Inv) (hb : s.busy = false) {r : RegName} {v : Word} {t : State}
    (ht : writeRegIdle r v s = .next t) : t.Inv := by
  cases r with
  | cmd => exact h.runCommand hb ht
  | rxlen => cases ht; exact { h with rxlenCap := saturateLen_le s v }
  | oplen => cases ht; exact { h with oplenCap := saturateLen_le s v }
  | _ => cases ht; exact h

/-- A register write to a busy framer changes nothing, whether it is dropped or ignored (R35, R37). -/
theorem writeRegBusy_next {r : RegName} {t : State} (ht : writeRegBusy r s = .next t) : t = s := by
  cases r <;> cases ht <;> rfl

/-- A write of bytes keeps the buffer it writes in canonical form (R61, R63). -/
theorem State.Inv.writeBufIdle (h : s.Inv) (b : HostBuf) (addr : Nat) (bs : Bytes) : (writeBufIdle b addr bs s).Inv := by
  cases b with
  | rx => exact { h with rxWf := h.rxWf.writeRange addr bs }
  | op => exact { h with opWf := h.opWf.writeRange addr bs }

/-- The reset event, from whatever state (R380). -/
theorem inv_hwResetState (s : State) : (hwResetState s).Inv := by
  obtain ⟨hrx, htx, hop, hres⟩ := reset_memoryWf
  have hd : (hwResetState s).DataOk :=
    { rxWf := hrx, txWf := htx, opWf := hop, resWf := hres, valsWf := ⟨.nil, nofun⟩, valsKeys := nofun
      rxlenCap := Nat.zero_le _, txlenCap := Nat.zero_le _, oplenCap := Nat.zero_le _, reslenCap := Nat.zero_le _
      cursorCap := Nat.zero_le _, mtiLegal := nofun, boundChecked := nofun }
  exact hd.inv_of_idle (reportOk_noKey rfl) rfl rfl rfl ⟨rfl, rfl, rfl, rfl⟩

theorem State.Inv.hostStep (h : s.Inv) {a : HostAction} {t : State} (ht : hostStep a s = .next t) : t.Inv := by
  cases a with
  | writeReg n v =>
    simp only [Machine.hostStep] at ht
    split at ht
    · cases ht
    split at ht
    · exact writeRegBusy_next ht ▸ h
    · next hb => exact h.writeRegIdle (by simpa using hb) ht
  | readReg n =>
    simp only [Machine.hostStep] at ht
    split at ht
    · cases ht
    split at ht
    · cases ht
    · cases ht; exact { h with }
  | writeBuf b addr bs =>
    simp only [Machine.hostStep] at ht
    split_ifs at ht
    cases ht
    exact h.writeBufIdle b addr bs
  | readBuf b addr =>
    simp only [Machine.hostStep] at ht
    split_ifs at ht
    cases ht
    exact { h with }
  | hwReset => cases ht; exact inv_hwResetState s

/-! ### The step -/

/-- The framer takes the host's next action first (log 8). -/
theorem step_host {a : HostAction} {rest : List HostAction} (h : s.host = a :: rest) :
    step s = hostStep a { s with host := rest } := by
  simp only [step, stepOf, h]

theorem step_seq (h : s.host = []) (hb : s.busy = true) : step s = seqStep s := by
  simp only [step, stepOf, h, hb, if_true]

theorem step_idle (h : s.host = []) (hb : s.busy = false) : step s = .next s := by
  simp [step, stepOf, h, hb]

/-- Settles O3: the data, STATUS and latch clauses are kept by each shared operation, and a step is a host action, a
step of the sequencer, or nothing. -/
theorem stepKeepsInv : Obligations.StepKeepsInv := by
  intro s t h ht
  cases hs : s.host with
  | cons a rest =>
    rw [step_host hs] at ht
    have h' : { s with host := rest : State }.Inv := { h with }
    exact h'.hostStep ht
  | nil =>
    cases hb : s.busy with
    | true => exact h.seqStep hb (step_seq hs hb ▸ ht)
    | false =>
      rw [step_idle hs hb] at ht
      cases ht
      exact h

/-- Settles O2: the reset state is what the reset event makes of itself. -/
theorem invAtReset : Obligations.InvAtReset := inv_hwResetState State.reset

end Sys2Proof.Machine

end

section
/-! The host's accesses (O4, O7, O8): what the step makes of each action of the host. -/

namespace Sys2Proof.Machine

variable {s : State} {rest : List HostAction}

/-! ### Register accesses (R35, R37) -/

theorem step_writeReg_idle {n : Nat} {v : Word} {r : RegName} (hb : s.busy = false) (hn : regOfNumber n = some r)
    (h : s.host = .writeReg n v :: rest) : step s = writeRegIdle r v { s with host := rest } := by
  simp [step_host h, hostStep, hn, hb]

theorem step_writeReg_busy {n : Nat} {v : Word} {r : RegName} (hb : s.busy = true) (hn : regOfNumber n = some r)
    (h : s.host = .writeReg n v :: rest) : step s = writeRegBusy r { s with host := rest } := by
  simp [step_host h, hostStep, hn, hb]

/-- A read of any register of an idle framer, or of STATUS. -/
theorem step_readReg {n : Nat} {r : RegName} (hb : s.busy = false ∨ r = .status) (hn : regOfNumber n = some r)
    (h : s.host = .readReg n :: rest) : step s = .next { s with host := rest, hostData := regRead s r } := by
  have hf : (s.busy && decide (r ≠ .status)) = false := by rcases hb with hb | hb <;> simp [hb]
  simp only [step_host h, hostStep, hn, hf]
  cases r <;> rfl

theorem step_readReg_busy {n : Nat} {r : RegName} (hb : s.busy = true) (hn : regOfNumber n = some r)
    (hr : r ≠ .status) (h : s.host = .readReg n :: rest) : step s = .refused .hostContract := by
  simp [step_host h, hostStep, hn, hb, hr]

theorem regOfNumber_none : ∀ {n : Nat}, 9 < n → regOfNumber n = none
  | _ + 10, _ => rfl

/-- Settles O4, by the lemma on a register write to an idle framer. -/
theorem stepRunsCommand : Obligations.StepRunsCommand := by
  intro s w rest i hb hs hi
  simp [step_writeReg_idle hb (r := .cmd) rfl hs, writeRegIdle, runCommand, hi]

/-- The read-only registers. -/
theorem step_writeReg_readOnly {n : Nat} {v : Word} (hn : n ∈ [1, 2, 4, 6, 7, 8, 9])
    (h : s.host = .writeReg n v :: rest) : step s = .next { s with host := rest } := by
  obtain ⟨r, hr, hidle, hbusy⟩ : ∃ r, regOfNumber n = some r ∧ (∀ t, writeRegIdle r v t = .next t) ∧
      ∀ t, writeRegBusy r t = .next t := by
    simp only [List.mem_cons, List.not_mem_nil, or_false] at hn
    rcases hn with rfl | rfl | rfl | rfl | rfl | rfl | rfl <;> exact ⟨_, rfl, fun _ => rfl, fun _ => rfl⟩
  by_cases hb : s.busy = true
  · rw [step_writeReg_busy hb hr h, hbusy]
  · rw [step_writeReg_idle (by simpa using hb) hr h, hidle]

/-- Settles O7, register by register. -/
theorem hostRegisterWrites : Obligations.HostRegisterWrites := fun _ _ _ =>
  ⟨fun hb h => step_writeReg_busy hb (r := .cmd) rfl h, fun hb h => step_writeReg_idle hb (r := .rxlen) rfl h,
    fun hb h => step_writeReg_idle hb (r := .oplen) rfl h, fun _ hn h => step_writeReg_readOnly hn h⟩

/-! ### Buffer accesses (R47, R60) -/

theorem step_writeBuf {b : HostBuf} {addr : Nat} {bs : Bytes} (hb : s.busy = false)
    (hc : addr + bs.length ≤ s.params.bufCap) (h : s.host = .writeBuf b addr bs :: rest) :
    step s = .next (writeBufIdle b addr bs { s with host := rest }) := by
  simp [step_host h, hostStep, hb, Nat.not_lt.2 hc]

theorem step_writeBuf_fault {b : HostBuf} {addr : Nat} {bs : Bytes} (hb : s.busy = false)
    (hc : s.params.bufCap < addr + bs.length) (h : s.host = .writeBuf b addr bs :: rest) :
    step s = .fault .bufferAddress := by
  simp [step_host h, hostStep, hb, hc]

theorem step_readBuf {b : AnyBuf} {a : Nat} (hb : s.busy = false) (hc : a < s.params.bufCap)
    (h : s.host = .readBuf b a :: rest) : step s = .next (readBufIdle b a { s with host := rest }) := by
  simp [step_host h, hostStep, hb, Nat.not_le.2 hc]

theorem step_readBuf_fault {b : AnyBuf} {a : Nat} (hb : s.busy = false) (hc : s.params.bufCap ≤ a)
    (h : s.host = .readBuf b a :: rest) : step s = .fault .bufferAddress := by
  simp [step_host h, hostStep, hb, hc]

/-- The buffer and the length that a read of a buffer byte goes by (R61 to R64). -/
def AnyBuf.view (s : State) : AnyBuf → Memory × Nat
  | .rx => (s.rxbuf, s.rxlen)
  | .tx => (s.txbuf, s.txlen)
  | .op => (s.opbuf, s.oplen)
  | .res => (s.resbuf, s.reslen)

/-- Below the length a read gives the byte that the buffer holds. -/
theorem hostReadByte_below {b : AnyBuf} {a : Nat} (h : a < (b.view s).2) :
    hostReadByte b a s = memRead (b.view s).1 a := by
  cases b with
  | rx => rfl
  | op => rfl
  | tx => exact if_pos h
  | res => exact if_pos h

theorem step_readBuf_byte {b : AnyBuf} {a : Nat} (hb : s.busy = false) (hc : a < s.params.bufCap)
    (h : s.host = .readBuf b a :: rest) :
    ∃ v : Byte, ∃ c, step s = .next { s with host := rest, hostData := v.zeroExtend 32, freeCtr := c } ∧
      (a < (b.view s).2 → v = memRead (b.view s).1 a) :=
  ⟨hostReadByte b a s, s.freeCtr + 1, by rw [step_readBuf hb hc h]; cases b <;> rfl, hostReadByte_below⟩

/-- What the reset event leaves (R380, R381; log 17). -/
theorem step_hwReset (h : s.host = .hwReset :: rest) : step s = .next (hwResetState { s with host := rest }) := by
  rw [step_host h, hostStep]

/-- CURSOR in the low half of its register (R45). -/
theorem regRead_cursor (s : State) : regRead s .cursor = (BitVec.ofNat 16 s.cursor).zeroExtend 32 := by
  apply BitVec.eq_of_toNat_eq
  simp [regRead]

/-! ### What a busy framer refuses (R395; log 13) -/

theorem step_writeBuf_busy {b : HostBuf} {addr : Nat} {bs : Bytes} (hb : s.busy = true)
    (h : s.host = .writeBuf b addr bs :: rest) : step s = .refused .hostContract := by
  simp [step_host h, hostStep, hb]

theorem step_readBuf_busy {b : AnyBuf} {a : Nat} (hb : s.busy = true) (h : s.host = .readBuf b a :: rest) :
    step s = .refused .hostContract := by
  simp [step_host h, hostStep, hb]

/-- Settles O8, clause by clause, each access by its own lemma. -/
theorem hostAccesses : Obligations.HostAccesses := by
  intro s rest
  refine ⟨fun hb => ⟨?regs, fun addr bs hc => ⟨?writeRx, ?writeOp⟩, ?reads,
      fun _ _ _ hc h => step_writeBuf_fault hb hc h, fun _ _ hc h => step_readBuf_fault hb hc h⟩, ?noReg,
    fun hb => ⟨?busyRead, ?busyWrite, fun _ _ _ h => step_writeBuf_busy hb h, fun _ _ h => step_readBuf_busy hb h⟩,
    ?reset⟩
  case regs =>
    have hr (r : RegName) {n : Nat} (hn : regOfNumber n = some r) (h : s.host = .readReg n :: rest) :=
      step_readReg (.inl hb) hn h
    simp only [List.forall_mem_cons, List.not_mem_nil, false_implies, implies_true, and_true]
    exact ⟨hr .cmd rfl, hr .errinfo rfl, hr .rxlen rfl, hr .txlen rfl, hr .oplen rfl, hr .reslen rfl, hr .resval rfl,
      regRead_cursor s ▸ hr .cursor rfl, hr .cfg rfl⟩
  case writeRx => exact fun h => ⟨_, step_writeBuf hb hc h, stored_memWriteRange _ _ _⟩
  case writeOp => exact fun h => ⟨_, step_writeBuf hb hc h, stored_memWriteRange _ _ _⟩
  case reads =>
    intro a hc
    have hr (b : AnyBuf) (h : s.host = .readBuf b a :: rest) := step_readBuf_byte hb hc h
    simp only [List.forall_mem_cons, List.not_mem_nil, false_implies, implies_true, and_true]
    exact ⟨hr .rx, hr .tx, hr .op, hr .res⟩
  case noReg =>
    rintro n v hn (h | h) <;> simp [step_host h, hostStep, regOfNumber_none hn]
  case busyRead =>
    have hr (r : RegName) (hs : r ≠ .status) {n : Nat} (hn : regOfNumber n = some r)
        (h : s.host = .readReg n :: rest) := step_readReg_busy hb hn hs h
    simp only [List.forall_mem_cons, List.not_mem_nil, false_implies, implies_true, and_true]
    exact ⟨hr .cmd nofun rfl, hr .errinfo nofun rfl, hr .rxlen nofun rfl, hr .txlen nofun rfl, hr .oplen nofun rfl,
      hr .reslen nofun rfl, hr .resval nofun rfl, hr .cursor nofun rfl, hr .cfg nofun rfl⟩
  case busyWrite =>
    simp only [List.forall_mem_cons, List.not_mem_nil, false_implies, implies_true, and_true]
    exact ⟨fun _ h => step_writeReg_busy hb (r := .rxlen) rfl h, fun _ h => step_writeReg_busy hb (r := .oplen) rfl h⟩
  case reset => exact fun h => ⟨_, step_hwReset h, rfl⟩

end Sys2Proof.Machine

end

section
/-! STATUS and the reset values (O9, O1). -/

namespace Sys2Proof.Machine
/-! ### STATUS (R38) -/

/-- The bits of STATUS, field by field from the lowest up. -/
theorem statusWord_getLsbD (s : State) (i : Nat) : (statusWord s).getLsbD i =
    if i < 3 then (kindCode s.kind).getLsbD i
    else if i - 3 < 1 then (BitVec.ofBool s.busy).getLsbD (i - 3)
    else if i - 4 < 1 then (BitVec.ofBool s.bound).getLsbD (i - 4)
    else if i - 5 < 1 then (BitVec.ofBool s.strict).getLsbD (i - 5)
    else if i - 6 < 1 then (BitVec.ofBool s.mtiValid).getLsbD (i - 6)
    else if i - 7 < 1 then (0 : BitVec 1).getLsbD (i - 7)
    else if i - 8 < 8 then (causeCode s.cause).getLsbD (i - 8)
    else if i - 16 < 8 then (ekeyCode s.ekey).getLsbD (i - 16)
    else (0 : BitVec 8).getLsbD (i - 24) := by
  change BitVec.getLsbD (w := 8 + 8 + 8 + 1 + 1 + 1 + 1 + 1 + 3) (_ ++ _) i = _
  repeat rw [BitVec.getLsbD_append]
  simp only [Nat.sub_sub, Nat.reduceAdd]

theorem statusWord_kind (s : State) : (statusWord s).extractLsb' 0 3 = kindCode s.kind := by
  refine BitVec.eq_of_getLsbD_eq fun i hi => ?_
  rw [BitVec.getLsbD_extractLsb', statusWord_getLsbD]
  simp [hi]

theorem statusWord_cause (s : State) : (statusWord s).extractLsb' 8 8 = causeCode s.cause := by
  change BitVec.extractLsb' (n := 8 + 8 + 8 + 1 + 1 + 1 + 1 + 1 + 3) 8 8 (_ ++ _) = _
  simp (disch := decide) only [BitVec.extractLsb'_append_eq_of_le, BitVec.extractLsb'_append_eq_of_add_le,
    Nat.reduceSub, BitVec.extractLsb'_eq_self]

theorem statusWord_ekey (s : State) : (statusWord s).extractLsb' 16 8 = ekeyCode s.ekey := by
  change BitVec.extractLsb' (n := 8 + 8 + 8 + 1 + 1 + 1 + 1 + 1 + 3) 16 8 (_ ++ _) = _
  simp (disch := decide) only [BitVec.extractLsb'_append_eq_of_le, BitVec.extractLsb'_append_eq_of_add_le,
    Nat.reduceSub, BitVec.extractLsb'_eq_self]

theorem statusWord_high (s : State) : (statusWord s).extractLsb' 24 8 = 0 := by
  change BitVec.extractLsb' (n := 8 + 8 + 8 + 1 + 1 + 1 + 1 + 1 + 3) 24 8 (_ ++ _) = _
  simp (disch := decide) only [BitVec.extractLsb'_append_eq_of_le, Nat.reduceSub, BitVec.extractLsb'_eq_self]

/-- A key fits EKEY (R38). -/
theorem ekeyCode_key {k : Nat} (h : k ≤ 128) : (ekeyCode (some k)).toNat = k := by
  rw [ekeyCode, BitVec.toNat_ofNat]
  omega

theorem kindCode_table (k : Kind) : (k, (kindCode k).toNat) ∈
    [(Kind.ok, 0), (.specError, 1), (.parseError, 2), (.buildError, 3), (.reject, 4)] := by
  cases k <;> decide

/-- Settles O9, field by field. -/
theorem statusRegister : Obligations.StatusRegister := by
  refine ⟨fun s => ⟨?kind, ?_, ?_, ?_, ?_, ?_, ?cause, ?noKey, ?key, statusWord_high s⟩, ?read, by decide⟩
  case kind => rw [statusWord_kind]; exact kindCode_table s.kind
  case cause => rw [statusWord_cause]; cases s.cause <;> decide
  case noKey => intro h; rw [statusWord_ekey, h, ekeyCode]
  case key => intro k h hk; rw [statusWord_ekey, h, ekeyCode_key hk]
  case read => exact fun _ _ h => step_readReg (.inr rfl) (r := .status) rfl h
  all_goals rw [statusWord_getLsbD]; simp

/-! ### Reset (R50) -/

/-- The frame of a command that needs a binding (R300, check 2), on an unbound framer. -/
theorem frame_unbound_specError {s : State} (h : s.bound = false) (ko bo : Bool) (rule : State → State) :
    ∃ t, (.next (frame true ko bo s rule) : Out) = .next t ∧ t.kind = .specError :=
  ⟨_, rfl, by rw [frame_unbound rule h]; rfl⟩

theorem seqCommand_unbound_specError {s : State} (h : s.bound = false) (r : Running) :
    ∃ t, seqCommand r s = .next t ∧ t.kind = .specError := by
  simp [seqCommand, frameCheck, h]

theorem presBit_zero (i : Nat) : presBit 0 i = false := by simp [presBit]

/-- Settles O1: each command but INIT and the codecs runs in a frame that needs a binding. -/
theorem resetValues : Obligations.ResetValues := by
  refine ⟨rfl, presBit_zero, fun _ => rfl, rfl, rfl, rfl, rfl, rfl, rfl, rfl, rfl, rfl, rfl, rfl, rfl, rfl, rfl, rfl, rfl,
    fun key arg => ?_⟩
  have hseq := seqCommand_unbound_specError (s := State.reset) rfl
  have hframe := frame_unbound_specError (s := State.reset) rfl
  simp only [List.forall_mem_cons, List.not_mem_nil, false_implies, implies_true, and_true]
  exact ⟨hseq .decode, hseq .build, hframe .., hframe .., hframe .., hframe .., hframe .., hframe .., hframe ..,
    hframe .., hframe .., hframe .., hframe .., hframe .., hframe .., hframe .., hframe ..⟩

end Sys2Proof.Machine

end

section
/-! The sequencer stepped one step at a time against the run of a whole command (O59). From a framer whose host does
nothing, `runSteps` and `seqRun` take the same steps while BUSY is 1; once the command has ended, `seqRun` stops and a
further step changes nothing. So the two agree at every number of steps, and at `seqBound` of them in particular. -/

namespace Sys2Proof.Machine

variable {s t : State}

/-- A framer that is idle and left alone stays as it is, however often it is stepped. -/
theorem runSteps_idle (hh : s.host = []) (hb : s.busy = false) (n : Nat) : runSteps n s = .next s := by
  induction n with
  | zero => rfl
  | succ n ih => simp only [runSteps, step_idle hh hb, ih]

/-- Whether it ends the command or goes on, a step of the sequencer keeps the host's actions and RESLEN = 0. -/
theorem seqStep_keeps_host_reslen (hl : s.reslen = 0) (ht : seqStep s = .next t) :
    t.host = s.host ∧ t.reslen = 0 := by
  rcases seqStep_spec hl ht with hends | ⟨hgoes, -⟩
  · exact ⟨hends.host, hends.reslen⟩
  · exact ⟨hgoes.host, hgoes.reslen.trans hl⟩

/-- `n` steps of a busy framer whose host does nothing are the sequencer's run of at most `n` steps. -/
theorem runSteps_eq_seqRun (hh : s.host = []) (hb : s.busy = true) (hl : s.reslen = 0) (n : Nat) :
    runSteps n s = seqRun n s := by
  induction n generalizing s with
  | zero => rfl
  | succ n ih =>
    obtain ⟨t, ht⟩ := seqStep_next s
    obtain ⟨hhost, hreslen⟩ := seqStep_keeps_host_reslen hl ht
    have hht : t.host = [] := hhost.trans hh
    simp only [runSteps, seqRun, step_seq hh hb, ht]
    split
    · next hbt => exact ih hht hbt hreslen
    · next hbt => exact runSteps_idle hht (Bool.eq_false_of_not_eq_true hbt) n

/-- A bound framer refuses no command of the sequencer (R300): it runs from START. -/
theorem seqCommand_of_bound (h : s.bound = true) (r : Running) :
    seqCommand r s = seqRun seqBound { s.begin r with phase := .start } := by
  have hc : frameCheck true true true s = none := frameCheck_eq_none.2 ⟨fun _ => h, rfl, rfl⟩
  rw [seqCommand, hc]

/-- `seqBound` steps from START are the whole command. -/
theorem runSteps_start_eq_seqCommand (h : s.bound = true) (hh : s.host = []) (r : Running) :
    runSteps seqBound { s.begin r with phase := .start } = seqCommand r s := by
  rw [seqCommand_of_bound h]
  exact runSteps_eq_seqRun (s := { s.begin r with phase := .start }) hh rfl rfl seqBound

/-- Settles O59: the number of steps is `seqBound` for both commands. -/
theorem sequencerAgrees : Obligations.SequencerAgrees := fun _ hbound hhost =>
  ⟨⟨seqBound, Nat.le_refl 512, runSteps_start_eq_seqCommand hbound hhost .decode⟩,
    ⟨seqBound, Nat.le_refl 512, runSteps_start_eq_seqCommand hbound hhost .build⟩⟩

end Sys2Proof.Machine

end

section
/-! Rows of the opcode table by the fields of a descriptor (R100, R105): the mask of a row is a union of whole fields,
so a descriptor matches the row exactly when those fields have the row's codes. -/

namespace Sys2Proof.Machine

/-! ### Masks made of fields -/

/-- A mask of the `n` bits from bit `lo` up. -/
def fieldMask (lo n : Nat) : Word := (BitVec.allOnes n).setWidth 32 <<< lo

theorem getLsbD_fieldMask (lo n i : Nat) :
    (fieldMask lo n).getLsbD i = (decide (i < 32) && decide (lo ≤ i) && decide (i - lo < n)) := by
  rw [fieldMask, BitVec.getLsbD_shiftLeft, BitVec.getLsbD_setWidth, BitVec.getLsbD_allOnes]
  grind

/-- Two words agree under the mask of a field exactly when the field has the same bits in both. -/
theorem and_fieldMask_eq_iff (d m : Word) (lo n : Nat) :
    d &&& fieldMask lo n = m &&& fieldMask lo n ↔ d.extractLsb' lo n = m.extractLsb' lo n := by
  constructor
  · intro h
    refine BitVec.eq_of_getLsbD_eq fun i hi => ?_
    have hbit := congrArg (BitVec.getLsbD · (lo + i)) h
    rw [BitVec.getLsbD_extractLsb', BitVec.getLsbD_extractLsb']
    by_cases hlt : lo + i < 32
    · simpa only [BitVec.getLsbD_and, getLsbD_fieldMask, hlt, Nat.le_add_right, Nat.add_sub_cancel_left, hi,
        decide_true, Bool.and_true, Bool.true_and] using hbit
    · simp [BitVec.getLsbD_of_ge _ _ (Nat.not_lt.1 hlt)]
  · intro h
    refine BitVec.eq_of_getLsbD_eq fun i hi => ?_
    rw [BitVec.getLsbD_and, BitVec.getLsbD_and, getLsbD_fieldMask]
    by_cases hin : lo ≤ i ∧ i - lo < n
    · have hbit := congrArg (BitVec.getLsbD · (i - lo)) h
      simpa [hi, hin, BitVec.getLsbD_extractLsb', Nat.add_sub_cancel' hin.1] using hbit
    · rw [show (decide (i < 32) && decide (lo ≤ i) && decide (i - lo < n)) = false by grind]
      simp only [Bool.and_false]

/-- Agreement under a union of masks is agreement under each. -/
theorem and_or_eq_and_or_iff (d m a b : Word) :
    d &&& (a ||| b) = m &&& (a ||| b) ↔ d &&& a = m &&& a ∧ d &&& b = m &&& b := by
  constructor
  · intro h
    have under : ∀ c : Word, (a ||| b) &&& c = c → d &&& c = m &&& c := by
      intro c hc
      rw [← hc, ← BitVec.and_assoc, h, BitVec.and_assoc]
    exact ⟨under a (by ext i; simp +contextual), under b (by ext i; simp +contextual)⟩
  · rintro ⟨ha, hb⟩
    rw [BitVec.and_or_distrib_left, BitVec.and_or_distrib_left, ha, hb]

/-! ### The masks of the opcode table -/

theorem descV_eq_iff (d m : Word) : d.extractLsb' 31 1 = m.extractLsb' 31 1 ↔ descV d = descV m := by
  simp [descV, BitVec.eq_of_getLsbD_eq_iff]

section Rows

variable {m d : Word}

/-- A row whose match word has no bit outside its mask. -/
theorem rowMatches_iff_agree {mask : Word} (hm : m &&& mask = m) :
    rowMatches mask m d = true ↔ d &&& mask = m &&& mask := by
  rw [rowMatches, beq_iff_eq, hm]

/-- The rows that LDISC selects: DLEN.FIXED and BFMT.VAR. -/
theorem rowMatches_ldisc (hm : m &&& 0x81800000 = m) :
    rowMatches 0x81800000 m d = true ↔ descV d = descV m ∧ descLdisc d = descLdisc m := by
  rw [rowMatches_iff_agree hm, show (0x81800000 : Word) = fieldMask 31 1 ||| fieldMask 23 2 by decide]
  simp only [and_or_eq_and_or_iff, and_fieldMask_eq_iff, descV_eq_iff, descLdisc]

/-- The rows that LDISC and LENC select: the other rows of DLEN, and BPFX. -/
theorem rowMatches_ldisc_lenc (hm : m &&& 0x81E00000 = m) :
    rowMatches 0x81E00000 m d = true ↔
      descV d = descV m ∧ descLdisc d = descLdisc m ∧ descLenc d = descLenc m := by
  rw [rowMatches_iff_agree hm,
    show (0x81E00000 : Word) = fieldMask 31 1 ||| (fieldMask 23 2 ||| fieldMask 21 2) by decide]
  simp only [and_or_eq_and_or_iff, and_fieldMask_eq_iff, descV_eq_iff, descLdisc, descLenc]

/-- The rows that DENC and CLS select: DVAL. -/
theorem rowMatches_denc_cls (hm : m &&& 0xFE000000 = m) :
    rowMatches 0xFE000000 m d = true ↔
      descV d = descV m ∧ descDenc d = descDenc m ∧ descCls d = descCls m := by
  rw [rowMatches_iff_agree hm,
    show (0xFE000000 : Word) = fieldMask 31 1 ||| (fieldMask 25 2 ||| fieldMask 27 4) by decide]
  simp only [and_or_eq_and_or_iff, and_fieldMask_eq_iff, descV_eq_iff, descDenc, descCls]

/-- The rows that LDISC and CLS select: BFMT.FIXED. -/
theorem rowMatches_ldisc_cls (hm : m &&& 0xF9800000 = m) :
    rowMatches 0xF9800000 m d = true ↔
      descV d = descV m ∧ descLdisc d = descLdisc m ∧ descCls d = descCls m := by
  rw [rowMatches_iff_agree hm,
    show (0xF9800000 : Word) = fieldMask 31 1 ||| (fieldMask 23 2 ||| fieldMask 27 4) by decide]
  simp only [and_or_eq_and_or_iff, and_fieldMask_eq_iff, descV_eq_iff, descLdisc, descCls]

/-- The rows that DENC selects: BEMIT. -/
theorem rowMatches_denc (hm : m &&& 0x86000000 = m) :
    rowMatches 0x86000000 m d = true ↔ descV d = descV m ∧ descDenc d = descDenc m := by
  rw [rowMatches_iff_agree hm, show (0x86000000 : Word) = fieldMask 31 1 ||| fieldMask 25 2 by decide]
  simp only [and_or_eq_and_or_iff, and_fieldMask_eq_iff, descV_eq_iff, descDenc]

end Rows

/-! ### Codes (R101 to R103) -/

theorem discOfCode_inj : ∀ {a b : BitVec 2}, discOfCode a = discOfCode b → a = b := by decide

theorem encOfCode_inj : ∀ {a b : BitVec 2}, encOfCode a = encOfCode b → a = b := by decide

/-- The legal codes of classes are distinct. -/
theorem classOfCode_inj : ∀ {a b : BitVec 4}, classOfCode a = classOfCode b → (classOfCode b).isSome → a = b := by
  decide

end Sys2Proof.Machine

end

section
/-! The dispatch of descriptors (O12, O13, O5): the decoder answers an instruction at a stage exactly when that
instruction's row belongs to the stage and the descriptor matches it (`decodeMicro_eq_ok_iff`). -/

namespace Sys2Proof.Machine

variable {d : Word} {i : Instr} {st : DStage}

theorem descV_of_decodeMicro (h : decodeMicro st d = .ok i) : descV d = true := by
  unfold decodeMicro at h
  split at h
  · cases h
  · next hv => simpa using hv

/-- What a stage decodes is the row of its codes: the codes that an arm of the dispatch table tests are those of the
row's match word. -/
theorem isRow_of_decodeMicro (h : decodeMicro st d = .ok i) :
    i.format = .d st ∧ i.WellFormed = true ∧ encode i = d := by
  have hv := descV_of_decodeMicro h
  rw [decodeMicro.eq_def, if_neg (by simp [hv])] at h
  cases st with
  | dlen =>
    dsimp only at h
    split at h <;> cases h <;> refine ⟨rfl, ?_, rfl⟩
    case h_1 hl => exact (rowMatches_ldisc rfl).2 ⟨hv, discOfCode_inj hl⟩
    all_goals next hl he => exact (rowMatches_ldisc_lenc rfl).2 ⟨hv, discOfCode_inj hl, encOfCode_inj he⟩
  | dval =>
    dsimp only at h
    split at h <;> cases h <;> refine ⟨rfl, ?_, rfl⟩
    all_goals next he hc => exact (rowMatches_denc_cls rfl).2 ⟨hv, encOfCode_inj he, classOfCode_inj hc rfl⟩
  | bfmt =>
    dsimp only at h
    split at h <;> cases h <;> refine ⟨rfl, ?_, rfl⟩
    case h_1 hl | h_2 hl | h_3 hl => exact (rowMatches_ldisc rfl).2 ⟨hv, discOfCode_inj hl⟩
    all_goals next hl hc => exact (rowMatches_ldisc_cls rfl).2 ⟨hv, discOfCode_inj hl, classOfCode_inj hc rfl⟩
  | bpfx =>
    dsimp only at h
    split at h <;> cases h <;> refine ⟨rfl, ?_, rfl⟩
    all_goals next hl he => exact (rowMatches_ldisc_lenc rfl).2 ⟨hv, discOfCode_inj hl, encOfCode_inj he⟩
  | bemit =>
    dsimp only at h
    split at h <;> cases h <;> refine ⟨rfl, ?_, rfl⟩
    all_goals next he => exact (rowMatches_denc rfl).2 ⟨hv, encOfCode_inj he⟩

/-- A micro-operation whose descriptor matches its row is what its stage decodes. The rows go by the fields that their
masks hold. -/
theorem decodeMicro_encode (hf : i.format = .d st) (hw : i.WellFormed = true) : decodeMicro st (encode i) = .ok i := by
  cases i <;> cases hf
  case dlenFixed d | bfmtVarLvar d | bfmtVarLlvar d | bfmtVarLllvar d =>
    obtain ⟨hv, hl⟩ := (rowMatches_ldisc rfl).1 hw
    simp only [encode, decodeMicro, hv, hl]
    rfl
  case dlenAsciiLvar d | dlenAsciiLlvar d | dlenAsciiLllvar d | dlenBcdLvar d | dlenBcdLlvar d | dlenBcdLllvar d |
      dlenBinLvar d | dlenBinLlvar d | dlenBinLllvar d | bpfxAsciiLvar d | bpfxAsciiLlvar d | bpfxAsciiLllvar d |
      bpfxBcdLvar d | bpfxBcdLlvar d | bpfxBcdLllvar d | bpfxBinLvar d | bpfxBinLlvar d | bpfxBinLllvar d =>
    obtain ⟨hv, hl, he⟩ := (rowMatches_ldisc_lenc rfl).1 hw
    simp only [encode, decodeMicro, hv, hl, he]
    rfl
  case bfmtFixedN d | bfmtFixedTA d | bfmtFixedTS d | bfmtFixedTAn d | bfmtFixedTAs d | bfmtFixedTNs d |
      bfmtFixedTAns d | bfmtFixedPB d | bfmtFixedPZ d =>
    obtain ⟨hv, hl, hc⟩ := (rowMatches_ldisc_cls rfl).1 hw
    simp only [encode, decodeMicro, hv, hl, hc]
    rfl
  case bemitAscii d | bemitBcd d | bemitBin d =>
    obtain ⟨hv, he⟩ := (rowMatches_denc rfl).1 hw
    simp only [encode, decodeMicro, hv, he]
    rfl
  all_goals
    obtain ⟨hv, he, hc⟩ := (rowMatches_denc_cls rfl).1 hw
    simp only [encode, decodeMicro, hv, he, hc]
    rfl

/-- The decoder of a stage against the rows of the stage (R105). -/
theorem decodeMicro_eq_ok_iff :
    decodeMicro st d = .ok i ↔ i.format = .d st ∧ i.WellFormed = true ∧ encode i = d :=
  ⟨isRow_of_decodeMicro, fun ⟨hf, hw, he⟩ => he ▸ decodeMicro_encode hf hw⟩

/-- Settles O12, arm by arm of the dispatch table. -/
theorem decodedMicroOpIsItsRow : Obligations.DecodedMicroOpIsItsRow := fun _ _ _ => isRow_of_decodeMicro

/-! ### Legal descriptors (R104) -/

/-- What checks 0 to 4 say of a descriptor (R160): it has an encoding and a class that go together, and a length
encoding unless it is FIXED. -/
theorem legal_of_checkWord (h : checkWord d = none) :
    ∃ e c, encOfCode (descDenc d) = some e ∧ classOfCode (descCls d) = some c ∧
      (isTextClass c = true → e = .ascii) ∧ (c = .clsB → e ≠ .bcd) ∧
      (descLdisc d ≠ 0 → ∃ le, encOfCode (descLenc d) = some le) := by
  have isSet : ∀ x : BitVec 2, x ≠ 0 → (encOfCode x).isSome := by decide
  unfold checkWord at h
  split at h
  · cases h
  next hdenc =>
  split at h
  · cases h
  next hlenc =>
  split at h
  · cases h
  next c hc =>
  split at h
  · cases h
  next htext =>
  split at h
  · cases h
  next hbin =>
  obtain ⟨e, he⟩ := Option.isSome_iff_exists.1 (isSet _ hdenc)
  refine ⟨e, c, he, hc, ?_, ?_, ?_⟩
  · intro ht
    by_contra hne
    exact htext ⟨ht, by simpa [he] using hne⟩
  · rintro hb rfl
    exact hbin ⟨hb, he⟩
  · intro hl
    exact Option.isSome_iff_exists.1 (isSet _ fun h0 => hlenc ⟨hl, h0⟩)

/-- Only the code 0 is FIXED (R103). -/
theorem discOfCode_ne_fixed : ∀ {x : BitVec 2}, x ≠ 0 → discOfCode x ≠ .fixed := by decide

/-- Every stage has a row for a legal descriptor, but BPFX for a FIXED one. -/
theorem decodeMicro_of_legal (hv : descV d = true) (h : checkWord d = none) (hs : st ≠ .bpfx ∨ descLdisc d ≠ 0) :
    ∃ i, decodeMicro st d = .ok i := by
  obtain ⟨e, c, he, hc, htext, hbin, hlenc⟩ := legal_of_checkWord h
  rw [decodeMicro.eq_def, if_neg (by simp [hv])]
  cases st with
  | dlen =>
    by_cases h0 : descLdisc d = 0
    · rw [h0]
      exact ⟨_, rfl⟩
    · obtain ⟨le, hle⟩ := hlenc h0
      rw [hle]
      cases hl : discOfCode (descLdisc d) with
      | fixed => exact absurd hl (discOfCode_ne_fixed h0)
      | _ => cases le <;> exact ⟨_, rfl⟩
  | dval =>
    rw [he, hc]
    cases c with
    | clsN | clsZ => cases e <;> exact ⟨_, rfl⟩
    | clsB =>
      cases e with
      | bcd => exact absurd rfl (hbin rfl)
      | _ => exact ⟨_, rfl⟩
    | _ =>
      obtain rfl := htext rfl
      exact ⟨_, rfl⟩
  | bfmt =>
    rw [hc]
    cases discOfCode (descLdisc d) with
    | fixed => cases c <;> exact ⟨_, rfl⟩
    | _ => exact ⟨_, rfl⟩
  | bpfx =>
    have h0 : descLdisc d ≠ 0 := hs.resolve_left (· rfl)
    obtain ⟨le, hle⟩ := hlenc h0
    rw [hle]
    cases hl : discOfCode (descLdisc d) with
    | fixed => exact absurd hl (discOfCode_ne_fixed h0)
    | _ => cases le <;> exact ⟨_, rfl⟩
  | bemit =>
    rw [he]
    cases e <;> exact ⟨_, rfl⟩

/-- A FIXED descriptor has no row at BPFX (R105, R113). -/
theorem decodeMicro_bpfx_fixed (hv : descV d = true) (h0 : descLdisc d = 0) :
    decodeMicro .bpfx d = .error (.noRow .bpfx) := by
  simp only [decodeMicro, hv, h0]
  rfl

/-- Settles O13: the rows of a stage that match a descriptor are what the stage decodes from it, and that is a
function. -/
theorem legalDescriptorSelectsOneRow : Obligations.LegalDescriptorSelectsOneRow := by
  refine fun d hv hd => ⟨fun st hs => ?_, fun h0 j hf hw he => ?_⟩
  · obtain ⟨i, hi⟩ := decodeMicro_of_legal hv hd hs
    refine ⟨i, isRow_of_decodeMicro hi, fun j hf hw he => ?_⟩
    have hj := decodeMicro_eq_ok_iff.2 ⟨hf, hw, he⟩
    exact Except.ok.inj (hj.symm.trans hi)
  · have hj := decodeMicro_eq_ok_iff.2 ⟨hf, hw, he⟩
    rw [decodeMicro_bpfx_fixed hv h0] at hj
    cases hj

/-! ### The step at a stage (R105) -/

/-- The meaning of a descriptor row is the micro-operation that the sequencer runs. -/
theorem microOp_of_format {s : State} (h : i.format = .d st) : microOp i s = some (exec i s) := by
  cases i <;> cases h <;> rfl

/-- Settles O5: a decoded instruction has the format of its stage, so the sequencer runs it as `exec` does. -/
theorem stepRunsMicroOp : Obligations.StepRunsMicroOp := by
  intro s st i hb hh hp hst hi
  obtain ⟨hf, -, -⟩ := isRow_of_decodeMicro hi
  calc step s = seqStep s := step_seq hh hb
    _ = fieldStage st s := by simp only [seqStep, hp, hst]
    _ = (microOp i s).getD (.next (s.raise .specError .seNoEntry (some s.fidx))) := by simp only [fieldStage, hi]
    _ = exec i s := by rw [microOp_of_format hf, Option.getD_some]

end Sys2Proof.Machine

end

section
/-! The command words (O11, O14, O10): the opcode map read opcode by opcode, the fields of an encoded word, and the
round trip of both formats. -/

namespace Sys2Proof.Machine

/-! ### The fields of an encoded command word (R90, R91) -/

@[simp] theorem cmdOp_cmdWord (op key : BitVec 8) (arg : BitVec 16) : cmdOp (cmdWord op key arg) = op := by
  simp (disch := decide) only [cmdOp, cmdWord, BitVec.extractLsb'_append_eq_of_le, Nat.reduceSub,
    BitVec.extractLsb'_eq_self]

@[simp] theorem cmdKey_cmdWord (op key : BitVec 8) (arg : BitVec 16) : cmdKey (cmdWord op key arg) = key := by
  simp (disch := decide) only [cmdKey, cmdWord, BitVec.extractLsb'_append_eq_of_le,
    BitVec.extractLsb'_append_eq_of_add_le, Nat.reduceSub, BitVec.extractLsb'_eq_self]

@[simp] theorem cmdArg_cmdWord (op key : BitVec 8) (arg : BitVec 16) : cmdArg (cmdWord op key arg) = arg := by
  simp (disch := decide) only [cmdArg, cmdWord, BitVec.extractLsb'_append_eq_of_add_le, BitVec.extractLsb'_eq_self]

/-- The two operands of INIT in `arg` (R91). -/
theorem initArg_fields (cat : BitVec 2) (strict : Bool) :
    (initArg cat strict).extractLsb' 0 2 = cat ∧ (initArg cat strict).getLsbD 8 = strict := by
  revert cat strict
  decide

/-! ### The opcode map (R92, R96) -/

/-- The operands of INIT are bits of the command word. -/
theorem cmdArg_init_fields (w : Word) :
    (cmdArg w).extractLsb' 0 2 = w.extractLsb' 0 2 ∧ (cmdArg w).getLsbD 8 = w.getLsbD 8 := by
  refine ⟨BitVec.eq_of_getLsbD_eq fun i hi => ?_, ?_⟩
  · have h16 : i < 16 := by omega
    simp only [cmdArg, BitVec.getLsbD_extractLsb', Nat.zero_add, h16, decide_true, Bool.true_and]
  · simp only [cmdArg, BitVec.getLsbD_extractLsb', Nat.zero_add, Nat.reduceLT, decide_true, Bool.true_and]

/-- The opcodes of the map. -/
def opcodes : List (BitVec 8) :=
  [0x01, 0x02, 0x03, 0x04, 0x05, 0x10, 0x11, 0x12, 0x13, 0x14, 0x15, 0x16, 0x20, 0x21, 0x22, 0x23, 0x24, 0x25, 0x30,
    0x31, 0x32, 0x33, 0x34, 0x35]

/-- Only a word whose opcode is in the map decodes. -/
theorem cmdOp_mem_of_decodeCommand {w : Word} {i : Instr} (h : decodeCommand w = .ok i) : cmdOp w ∈ opcodes := by
  have mem : ∀ op : BitVec 8, op.toNat ∈ opcodes.map BitVec.toNat → op ∈ opcodes := by decide
  refine mem _ ?_
  unfold decodeCommand at h
  split at h
  case h_25 => cases h
  all_goals next hop =>
    rw [hop]
    decide

/-- A CMD write of an idle framer whose opcode is not in the map ends as R300's check 1 says. -/
theorem step_badOpcode {s : State} {w : Word} {rest : List HostAction} (hb : s.busy = false)
    (hs : s.host = .writeReg 0 w :: rest) (hop : cmdOp w ∉ opcodes) :
    step s = .next { s.errEnd .reject .rjBadOpcode none with host := rest, errinfo := 0 } := by
  rw [step_writeReg_idle hb (r := .cmd) rfl hs, writeRegIdle, runCommand]
  cases hw : decodeCommand w with
  | ok i => exact absurd (cmdOp_mem_of_decodeCommand hw) hop
  | error e => rfl

/-- Settles O14: an opcode selects its arm of the decoder; the operands of the arms are bits of the word. -/
theorem opcodeMap : Obligations.OpcodeMap := by
  refine ⟨fun w => ⟨fun h => ?init, ?_⟩, fun s w rest hb hs hop => step_badOpcode hb hs hop⟩
  case init =>
    obtain ⟨hcat, hstrict⟩ := cmdArg_init_fields w
    simp only [decodeCommand, h, hcat, hstrict]
    rfl
  and_intros
  all_goals
    intro h
    simp only [decodeCommand, h]
    rfl

/-! ### The round trip -/

/-- Every command, with every operand. -/
theorem decodeCommand_encode {i : Instr} (hf : i.format = .c) : decodeCommand (encode i) = .ok i := by
  cases i <;> cases hf
  case init cat strict =>
    obtain ⟨hcat, hstrict⟩ := initArg_fields cat strict
    simp only [encode, decodeCommand, cmdOp_cmdWord, cmdArg_cmdWord, hcat, hstrict]
    rfl
  all_goals
    simp only [encode, decodeCommand, cmdOp_cmdWord, cmdKey_cmdWord, cmdArg_cmdWord]
    rfl

/-- Settles O11: a command by its opcode, a micro-operation by its row. -/
theorem encodingRoundTrip : Obligations.EncodingRoundTrip := by
  intro i hw
  cases hf : i.format with
  | c => exact decodeCommand_encode hf
  | d st => exact decodeMicro_encode hf hw

/-- Settles O10, by evaluation of the seven words. -/
theorem knownWords : Obligations.KnownWords := by
  unfold Obligations.KnownWords
  decide

end Sys2Proof.Machine

end

section
/-! The laws of the primitive codecs (O34): packing and unpacking undo each other, and the decimal text of a number is
the shortest one that spells it. -/

namespace Sys2Proof.Machine

/-! ### Hexadecimal text (R130, R131, R136) -/

/-- The character of a nibble that was read from a character is that character in upper case. -/
theorem hexDigit_of_nibval : ∀ c : Byte, ∀ x ∈ nibval c, upperHex [c] = [hexDigit x] := by decide +kernel

theorem upperHex_cons (c : Byte) (t : Bytes) : upperHex (c :: t) = upperHex [c] ++ upperHex t := by simp [upperHex]

theorem hexDecode_cons_cons_eq_some {a b : Byte} {t bs : Bytes} : hexDecode (a :: b :: t) = some bs ↔
    ∃ x y rest, nibval a = some x ∧ nibval b = some y ∧ hexDecode t = some rest ∧ bs = (x ++ y : BitVec 8) :: rest := by
  simp only [hexDecode]
  cases nibval a <;> cases nibval b <;> cases hexDecode t <;> simp [eq_comm]

theorem hexDecode_hexEncode (bs : Bytes) : hexDecode (hexEncode bs) = some bs := by
  induction bs with
  | nil => rfl
  | cons b rest ih =>
    exact hexDecode_cons_cons_eq_some.2
      ⟨_, _, rest, nibval_hexDigit _, nibval_hexDigit _, ih, by rw [append_extract]⟩

theorem hexEncode_injective : Function.Injective hexEncode := fun _ _ h =>
  Option.some.inj (by rw [← hexDecode_hexEncode, h, hexDecode_hexEncode])

theorem hexEncode_append (as bs : Bytes) : hexEncode (as ++ bs) = hexEncode as ++ hexEncode bs := by
  induction as with
  | nil => rfl
  | cons a as ih => simp only [List.cons_append, hexEncode, ih]

theorem hexEncode_zeros (k : Nat) : hexEncode (List.replicate k 0) = List.replicate (2 * k) 0x30 := by
  induction k with
  | zero => rfl
  | succ k ih => rw [List.replicate_succ, hexEncode, ih]; rfl

/-- What decodes is the encoding of what it decodes to, but for the case of its letters. -/
theorem hexEncode_of_hexDecode : ∀ {t bs : Bytes}, hexDecode t = some bs → hexEncode bs = upperHex t
  | [], _, h => by cases h; rfl
  | [_], _, h => by cases h
  | a :: b :: t, _, h => by
    obtain ⟨x, y, rest, hx, hy, hrest, rfl⟩ := hexDecode_cons_cons_eq_some.1 h
    obtain ⟨hhigh, hlow⟩ := extract_append x y
    rw [hexEncode, hhigh, hlow, upperHex_cons, hexDigit_of_nibval a x hx, upperHex_cons, hexDigit_of_nibval b y hy,
      hexEncode_of_hexDecode hrest]
    rfl

theorem hexDecode_isSome_iff : ∀ t : Bytes,
    (hexDecode t).isSome ↔ t.length % 2 = 0 ∧ ∀ c ∈ t, (nibval c).isSome
  | [] => by simp [hexDecode]
  | [_] => by simp [hexDecode]
  | a :: b :: t => by
    have ih := hexDecode_isSome_iff t
    have hlen : (a :: b :: t).length % 2 = t.length % 2 := by simp [Nat.add_assoc]
    rw [hlen, List.forall_mem_cons, List.forall_mem_cons]
    have hsome : (hexDecode (a :: b :: t)).isSome ↔ (nibval a).isSome ∧ (nibval b).isSome ∧ (hexDecode t).isSome := by
      simp only [Option.isSome_iff_exists, hexDecode_cons_cons_eq_some]
      grind
    rw [hsome, ih]
    tauto

/-! ### Packed digits (R132, R133) -/

theorem bcdEncode_eq_hexDecode (t : Bytes) : bcdEncode t = hexDecode (evenText t) := rfl

theorem bcdEncode_bcdDecode (bs : Bytes) : bcdEncode (bcdDecode bs) = some bs := by
  have heven : evenText (bcdDecode bs) = hexEncode bs := if_neg (by rw [bcdDecode, hexEncode_length]; omega)
  rw [bcdEncode_eq_hexDecode, heven, hexDecode_hexEncode]

theorem bcdDecode_of_bcdEncode {t bs : Bytes} (h : bcdEncode t = some bs) :
    bcdDecode bs = upperHex (evenText t) ∧ bs.length = ceil2 t.length := by
  have htext : hexEncode bs = upperHex (evenText t) := hexEncode_of_hexDecode h
  have hlen : 2 * bs.length = 2 * ceil2 t.length := by
    rw [← hexEncode_length, htext, upperHex, List.length_map, evenText_length]
  exact ⟨htext, by omega⟩

/-! ### Decimal text (R9) -/

theorem isNum_natToDec (n : Nat) : isNum (natToDec n) = true := by
  obtain ⟨hdigits, -, hne, -⟩ := natToDec_spec n
  exact (isNum_iff _).2 ⟨hne, hdigits⟩

theorem decToNat_natToDec (n : Nat) : decToNat (natToDec n) = some n := by
  obtain ⟨-, hval, -, -⟩ := natToDec_spec n
  exact decToNat_eq_some.2 ⟨isNum_natToDec n, hval⟩

/-- No text of a number is shorter than `natToDec`. -/
theorem natToDec_length_le_of_decToNat {t : Bytes} {n : Nat} (h : decToNat t = some n) :
    (natToDec n).length ≤ t.length := by
  obtain ⟨hnum, rfl⟩ := decToNat_eq_some.1 h
  obtain ⟨hne, hdigits⟩ := (isNum_iff t).1 hnum
  exact natToDec_length_le _ _ (List.length_pos_iff.2 hne) (digitsVal_lt t hdigits)

theorem decToNat_eq_none {t : Bytes} : decToNat t = none ↔ t = [] ∨ ∃ c ∈ t, isDigit c = false := by
  have hnone : decToNat t = none ↔ ¬ isNum t = true := by simp [decToNat]
  rw [hnone, isNum_iff, List.all_eq_true]
  grind

/-- Zeros in front of a text change nothing. -/
theorem decToNat_zeros (k : Nat) {t : Bytes} (h : t ≠ []) : decToNat (List.replicate k 0x30 ++ t) = decToNat t := by
  have hnum : isNum (List.replicate k 0x30 ++ t) = isNum t := by
    rw [Bool.eq_iff_iff, isNum_iff, isNum_iff, List.all_append, List.all_replicate]
    simp [h, show isDigit 0x30#8 = true by decide]
  simp only [decToNat, hnum, digitsVal_zeros]

theorem digitVal_inj {c d : Byte} (hc : isDigit c = true) (hd : isDigit d = true) (h : digitVal c = digitVal d) :
    c = d := by
  rw [isDigit_iff] at hc hd
  unfold digitVal at h
  exact BitVec.eq_of_toNat_eq (by omega)

/-- Of one length, only one text of digits spells a number. -/
theorem digitsVal_inj : ∀ {t u : Bytes}, t.length = u.length → t.all isDigit = true → u.all isDigit = true →
    digitsVal t = digitsVal u → t = u
  | [], [], _, _, _, _ => rfl
  | c :: t, d :: u, hlen, ht, hu, hval => by
    simp only [List.all_cons, Bool.and_eq_true, List.length_cons, Nat.add_right_cancel_iff] at ht hu hlen
    rw [digitsVal_cons, digitsVal_cons, hlen] at hval
    have hlt := hlen ▸ digitsVal_lt t ht.2
    have hlu := digitsVal_lt u hu.2
    have hpow : 0 < 10 ^ u.length := by positivity
    have hrest : digitsVal t = digitsVal u := by
      rw [← Nat.mul_add_mod_of_lt hlt, hval, Nat.mul_add_mod_of_lt hlu]
    have hfirst : digitVal c = digitVal d :=
      Nat.eq_of_mul_eq_mul_right hpow (Nat.add_right_cancel (hrest ▸ hval))
    rw [digitVal_inj ht.1 hu.1 hfirst, digitsVal_inj hlen ht.2 hu.2 hrest]

/-! ### Packed numbers (R134, R135) -/

/-- Decimal text always packs; unpacked it has a zero in front of an odd count. -/
theorem intToBcd_spec (n : Nat) : bcdEncode (natToDec n) = some (intToBcd n) ∧
    (intToBcd n).length = ceil2 (natToDec n).length ∧ bcdDecode (intToBcd n) = evenText (natToDec n) := by
  obtain ⟨hdigits, -, -, -⟩ := natToDec_spec n
  obtain ⟨bs, hbs, hlen, htext⟩ := bcdEncode_digits (natToDec n) hdigits
  have hpacked : intToBcd n = bs := by rw [intToBcd, hbs, Option.getD_some]
  exact hpacked ▸ ⟨hbs, hlen, htext⟩

theorem bcdToInt_intToBcd (n : Nat) : bcdToInt (intToBcd n) = some n := by
  obtain ⟨-, -, htext⟩ := intToBcd_spec n
  obtain ⟨hnum, hval⟩ := decToNat_eq_some.1 (decToNat_natToDec n)
  obtain ⟨hne, hdigits⟩ := (isNum_iff _).1 hnum
  have hne' : evenText (natToDec n) ≠ [] := by
    rw [← List.length_pos_iff, evenText_length, ceil2]
    have := List.length_pos_iff.2 hne
    omega
  rw [bcdToInt, htext, decToNat_eq_some, isNum_iff, digitsVal_evenText]
  exact ⟨⟨hne', evenText_digits _ hdigits⟩, hval⟩

/-- Zero bytes in front of a packed number change nothing. -/
theorem bcdToInt_zeros (k : Nat) {bs : Bytes} (h : bs ≠ []) : bcdToInt (List.replicate k 0 ++ bs) = bcdToInt bs := by
  have hne : hexEncode bs ≠ [] := fun hnil => h (hexEncode_injective hnil)
  rw [bcdToInt, bcdDecode, hexEncode_append, hexEncode_zeros, decToNat_zeros _ hne]
  rfl

/-- Of one length, only one byte string packs a number. -/
theorem bcdToInt_inj {as bs : Bytes} {n : Nat} (hlen : as.length = bs.length) (ha : bcdToInt as = some n)
    (hb : bcdToInt bs = some n) : as = bs := by
  obtain ⟨hnumA, hvalA⟩ := decToNat_eq_some.1 ha
  obtain ⟨hnumB, hvalB⟩ := decToNat_eq_some.1 hb
  obtain ⟨-, hdigitsA⟩ := (isNum_iff _).1 hnumA
  obtain ⟨-, hdigitsB⟩ := (isNum_iff _).1 hnumB
  have hlen' : (bcdDecode as).length = (bcdDecode bs).length := by
    rw [bcdDecode, bcdDecode, hexEncode_length, hexEncode_length, hlen]
  exact hexEncode_injective (digitsVal_inj hlen' hdigitsA hdigitsB (hvalA.trans hvalB.symm))

/-- A packed number is its shortest packing behind zero bytes. -/
theorem eq_zeros_append_intToBcd {bs : Bytes} {n : Nat} (h : bcdToInt bs = some n) :
    ∃ k, k < bs.length ∧ bs = List.replicate k 0 ++ intToBcd n := by
  obtain ⟨-, hpacked, -⟩ := intToBcd_spec n
  obtain ⟨-, -, hne, -⟩ := natToDec_spec n
  have hpos := List.length_pos_iff.2 hne
  have hle : (natToDec n).length ≤ 2 * bs.length := hexEncode_length bs ▸ natToDec_length_le_of_decToNat h
  have hfit : 0 < (intToBcd n).length ∧ (intToBcd n).length ≤ bs.length := by
    rw [hpacked, ceil2]
    omega
  refine ⟨bs.length - (intToBcd n).length, by omega, bcdToInt_inj ?_ h ?_⟩
  · rw [List.length_append, List.length_replicate]
    omega
  · rw [bcdToInt_zeros _ (List.length_pos_iff.1 hfit.1), bcdToInt_intToBcd]

/-- Settles O34, law by law. -/
theorem codecLaws : Obligations.CodecLaws :=
  ⟨hexDecode_hexEncode, bcdEncode_bcdDecode, fun _ _ => hexEncode_of_hexDecode, fun _ _ => bcdDecode_of_bcdEncode,
    hexDecode_isSome_iff, fun n => (intToBcd_spec n).1, bcdToInt_intToBcd, fun _ _ => eq_zeros_append_intToBcd,
    fun n => ⟨isNum_natToDec n, decToNat_natToDec n⟩, fun _ _ => natToDec_length_le_of_decToNat,
    fun _ => decToNat_eq_none⟩

end Sys2Proof.Machine

end

section
/-! The primitive codec commands (O32, O33): each is one conversion of the operand, and what it answers or refuses is
said once for every conversion. -/

namespace Sys2Proof.Machine

variable {s : State} {f : Bytes → Option (Bytes × Word)}

/-! ### A conversion of the operand (R140 to R145) -/

theorem codecCommand_eq (s : State) (f : Bytes → Option (Bytes × Word)) : codecCommand s f =
    ((f s.operand).map fun x => resultDone x.1 x.2 (s.begin .none)).getD
      { s.errEnd .reject .rjOperand none with errinfo := 0 } := by
  rw [codecCommand, frame_pass _ (by simp) rfl rfl, operand_begin]
  cases f s.operand with
  | none => exact begin_none_raise s _ _ _
  | some x => rfl

/-- The operand converts and the result fits. -/
theorem answers_codecCommand {v : Bytes} {rv : Word} (h : f s.operand = some (v, rv))
    (hv : v.length ≤ s.params.bufCap) : Answers s (.next (codecCommand s f)) v rv := by
  rw [codecCommand_eq, h]
  exact answers_resultDone rv hv

/-- The operand does not convert, or the result does not fit. -/
theorem codecCommand_rejects (h : ∀ x, f s.operand = some x → s.params.bufCap < x.1.length) :
    codecCommand s f = { s.errEnd .reject .rjOperand none with errinfo := 0 } := by
  rw [codecCommand_eq]
  cases hf : f s.operand with
  | none => rfl
  | some x => exact resultDone_over x.2 (h x hf)

/-- The same for a conversion whose answer is put into RESBUF and RESVAL by `g`. -/
theorem codecCommand_map_rejects {α : Type} {conv : Bytes → Option α} {g : α → Bytes × Word}
    (h : ∀ a, conv s.operand = some a → s.params.bufCap < (g a).1.length) :
    codecCommand s (fun bs => (conv bs).map g) = { s.errEnd .reject .rjOperand none with errinfo := 0 } := by
  refine codecCommand_rejects fun x hx => ?_
  obtain ⟨a, ha, rfl⟩ := Option.map_eq_some_iff.1 hx
  exact h a ha

theorem saturate32_of_lt {n : Nat} (h : n < 2 ^ 32) : saturate32 n = BitVec.ofNat 32 n := if_pos h

theorem saturate32_of_le {n : Nat} (h : 2 ^ 32 ≤ n) : saturate32 n = 0xFFFFFFFF := if_neg (by omega)

theorem hexEncode_operand_length (s : State) : (hexEncode s.operand).length = 2 * s.oplen := by
  rw [hexEncode_length, operand_length]

/-! ### The six commands -/

theorem answers_bcdToInt {n : Nat} (h : bcdToInt s.operand = some n) (hv : (natToDec n).length ≤ s.params.bufCap) :
    Answers s (exec .bcdToInt s) (natToDec n) (saturate32 n) :=
  answers_codecCommand (by rw [h]; rfl) hv

theorem answers_intToBcd {n : Nat} {v : Bytes} (h : decToNat s.operand = some n) (hn : bcdEncode (natToDec n) = some v)
    (hv : v.length ≤ s.params.bufCap) : Answers s (exec .intToBcd s) v 0 := by
  obtain ⟨hpacked, -, -⟩ := intToBcd_spec n
  obtain rfl := Option.some.inj (hpacked.symm.trans hn)
  exact answers_codecCommand (by rw [h]; rfl) hv

/-- Settles O32: each command is a conversion, whose answer `answers_codecCommand` gives. -/
theorem codecsAnswer : Obligations.CodecsAnswer := by
  intro s
  have hlen := hexEncode_operand_length s
  refine ⟨?bcdDecode, ?hexEncode, ?bcdEncode, ?hexDecode, ?bcdToInt, ?saturated, ?intToBcd⟩
  case bcdDecode => exact fun h => answers_codecCommand rfl (hlen.trans_le h)
  case hexEncode => exact fun h => answers_codecCommand rfl (hlen.trans_le h)
  case bcdEncode => exact fun v h hv => answers_codecCommand (by rw [h]; rfl) hv
  case hexDecode => exact fun v h hv => answers_codecCommand (by rw [h]; rfl) hv
  case bcdToInt => exact fun n h hv hn => saturate32_of_lt hn ▸ answers_bcdToInt h hv
  case saturated => exact fun n h hv hn => saturate32_of_le hn ▸ answers_bcdToInt h hv
  case intToBcd => exact fun n v => answers_intToBcd

/-- Settles O33: each command is a conversion, whose refusal `codecCommand_map_rejects` gives. -/
theorem codecsReject : Obligations.CodecsReject := by
  intro s i hi
  have hlen := hexEncode_operand_length s
  have hunpack (h : s.params.bufCap < 2 * s.oplen) :
      codecCommand s (fun bs => some (hexEncode bs, 0)) = { s.errEnd .reject .rjOperand none with errinfo := 0 } :=
    codecCommand_map_rejects (conv := some) fun _ hbs => Option.some.inj hbs ▸ hlen.symm ▸ h
  rcases hi with ⟨rfl, h⟩ | ⟨rfl, h⟩ | ⟨rfl, h⟩ | ⟨rfl, h⟩ | ⟨rfl, h⟩ | ⟨rfl, h⟩
  · exact congrArg _ (hunpack h)
  · exact congrArg _ (hunpack h)
  · exact congrArg _ (codecCommand_map_rejects h)
  · exact congrArg _ (codecCommand_map_rejects h)
  · exact congrArg _ (codecCommand_map_rejects h)
  · exact congrArg _ (codecCommand_map_rejects fun n hn => h n _ hn (intToBcd_spec n).1)

end Sys2Proof.Machine

end

section
/-! The catalog check (O18): the first failure of a list of numbers in order, the check of one word read off its
bits, and what INIT makes of the check's answer. -/

namespace Sys2Proof.Machine

/-! ### The first failing key (R160) -/

/-- The first hit of a search through 0, 1, ..., n - 1. -/
theorem findSome?_range_eq_some_iff {α : Type} {f : Nat → Option α} {n : Nat} {a : α} :
    (List.range n).findSome? f = some a ↔ ∃ k, k < n ∧ f k = some a ∧ ∀ j, j < k → f j = none := by
  induction n with
  | zero => simp
  | succ n ih =>
    rw [List.range_succ, List.findSome?_append, Option.or_eq_some_iff, ih, List.findSome?_eq_none_iff]
    simp only [List.mem_range, List.findSome?_singleton]
    constructor
    · rintro (⟨k, hk, hit, hfirst⟩ | ⟨hbelow, hit⟩)
      · exact ⟨k, by omega, hit, hfirst⟩
      · exact ⟨n, by omega, hit, hbelow⟩
    · rintro ⟨k, hk, hit, hfirst⟩
      rcases Nat.lt_succ_iff_lt_or_eq.1 hk with hlt | rfl
      · exact .inl ⟨k, hlt, hit, hfirst⟩
      · exact .inr ⟨hfirst, hit⟩

variable {rom : CatRom} {c : BitVec 2} {k : Nat}

theorem checkKey_eq_some_iff {cause : Cause} {key : Nat} : checkKey rom c k = some (cause, key) ↔
    descV (catRomWord rom c k) = true ∧ checkWord (catRomWord rom c k) = some cause ∧ k = key := by
  simp [checkKey]

theorem checkKey_eq_none_iff : checkKey rom c k = none ↔
    (descV (catRomWord rom c k) = true → checkWord (catRomWord rom c k) = none) := by
  simp [checkKey]

/-- The failure that is reported is that of the least failing key. -/
theorem catCheck_eq_some_iff {cause : Cause} : catCheck rom c = some (cause, k) ↔
    k ≤ 128 ∧ descV (catRomWord rom c k) = true ∧ checkWord (catRomWord rom c k) = some cause ∧
      ∀ j, j < k → descV (catRomWord rom c j) = true → checkWord (catRomWord rom c j) = none := by
  simp only [catCheck, findSome?_range_eq_some_iff, checkKey_eq_some_iff, checkKey_eq_none_iff]
  constructor
  · rintro ⟨k, hk, ⟨hv, hc, rfl⟩, hfirst⟩
    exact ⟨Nat.le_of_lt_succ hk, hv, hc, hfirst⟩
  · rintro ⟨hk, hv, hc, hfirst⟩
    exact ⟨k, Nat.lt_succ_of_le hk, ⟨hv, hc, rfl⟩, hfirst⟩

/-- A catalog passes when each of its keys does. -/
theorem catCheck_eq_none_iff : catCheck rom c = none ↔
    ∀ k, k ≤ 128 → descV (catRomWord rom c k) = true → checkWord (catRomWord rom c k) = none := by
  simp only [catCheck, List.findSome?_eq_none_iff, List.mem_range, checkKey_eq_none_iff, nKey, Nat.lt_succ_iff]

/-! ### The checks on the bits of a word (R101, R102, R160) -/

theorem classOfCode_eq_none_iff : ∀ x : BitVec 4, classOfCode x = none ↔ 9 ≤ x.toNat := by decide

/-- The codes of the classes TEXTCLS (R12). -/
theorem isTextClass_iff_code : ∀ {x : BitVec 4}, ∀ cls ∈ classOfCode x,
    (isTextClass cls = true ↔ x.toNat ∈ [0, 2, 3, 4, 5, 6]) := by decide

theorem clsB_iff_code : ∀ {x : BitVec 4}, ∀ cls ∈ classOfCode x, (cls = .clsB ↔ x.toNat = 7) := by decide

theorem encOfCode_eq_ascii_iff : ∀ x : BitVec 2, encOfCode x = some .ascii ↔ x = 1 := by decide

theorem encOfCode_eq_bcd_iff : ∀ x : BitVec 2, encOfCode x = some .bcd ↔ x = 2 := by decide

/-- Checks 0 to 4, in their order, each on the codes of the word. -/
theorem checkWord_eq_codes (d : Word) : checkWord d =
    if descDenc d = 0 then some .seChkDenc
    else if descLdisc d ≠ 0 ∧ descLenc d = 0 then some .seChkLenc
    else if 9 ≤ (descCls d).toNat then some .seChkClass
    else if (descCls d).toNat ∈ [0, 2, 3, 4, 5, 6] ∧ descDenc d ≠ 1 then some .seChkAscii
    else if (descCls d).toNat = 7 ∧ descDenc d = 2 then some .seChkBinBcd
    else none := by
  unfold checkWord
  congr 2
  cases hcls : classOfCode (descCls d) with
  | none => exact (if_pos ((classOfCode_eq_none_iff _).1 hcls)).symm
  | some cls =>
    have hlegal : ¬ 9 ≤ (descCls d).toNat := by simp [← classOfCode_eq_none_iff, hcls]
    simp only [if_neg hlegal, isTextClass_iff_code cls hcls, clsB_iff_code cls hcls, ne_eq,
      encOfCode_eq_ascii_iff, encOfCode_eq_bcd_iff]

/-! ### INIT (R161, R301) -/

theorem initRule_binds_iff (s : State) (strict : Bool) (hc : c ≠ 3) : (initRule c strict s).catsel = c ∧
    ((initRule c strict s).bound = true ↔ catCheck s.catrom c = none) := by
  simp only [initRule, if_neg hc]
  cases catCheck s.catrom c <;> simp

/-- Settles O18: the search through the keys, the codes of a word, and INIT's rule behind the frame. -/
theorem catalogCheck : Obligations.CatalogCheck := by
  refine ⟨fun _ _ _ _ => catCheck_eq_some_iff, fun _ _ => catCheck_eq_none_iff, fun s c strict hc => ?_,
    checkWord_eq_codes⟩
  have hrun : exec (.init c strict) s = .next (initRule c strict (s.begin .none)) :=
    congrArg Host.Outcome.next (frame_pass _ nofun rfl rfl)
  exact ⟨_, hrun, initRule_binds_iff (s.begin .none) strict hc⟩

end Sys2Proof.Machine

end

section
/-! The lookup of a descriptor, by the sequencer at the beginning of a field (O6) and by the introspection commands
(O31). -/

namespace Sys2Proof.Machine

variable {s : State} {key : BitVec 8}

/-! ### The beginning of a field (R223, R263) -/

theorem step_fetchDescriptor (hb : s.busy = true) (hh : s.host = []) (hp : s.phase = .field) (hs : s.stage = none) :
    step s = .next (fetchDescriptor s) := by
  simp only [step_seq hh hb, seqStep, hp, hs]

theorem fetchDescriptor_entry (h : descV (s.catWord s.fidx) = true) : fetchDescriptor s =
    { s with desc := s.catWord s.fidx, stage := some (if s.running = .build then .bfmt else .dlen) } := if_pos h

theorem fetchDescriptor_noEntry (h : descV (s.catWord s.fidx) = false) :
    fetchDescriptor s = s.raise .specError .seNoEntry (some s.fidx) := by
  simp [fetchDescriptor, h]

/-- Settles O6: the step is the lookup, and the path selects the stage that follows or the way the error ends. -/
theorem stepReadsDescriptor : Obligations.StepReadsDescriptor := by
  intro s hb hh hp hs
  rw [step_fetchDescriptor hb hh hp hs]
  refine ⟨fun hv hr => ?_, fun hv hr => ?_, fun hv hr => ?_, fun hv hr => ?_⟩
  · rw [fetchDescriptor_entry hv, hr]
    rfl
  · rw [fetchDescriptor_entry hv, hr]
    rfl
  · rw [fetchDescriptor_noEntry hv, raise_decode _ _ _ _ hr]
  · rw [fetchDescriptor_noEntry hv, raise_build _ _ _ _ hr]

/-! ### Codes read back (R101 to R103) -/

theorem encCode_encOfCode : ∀ x : BitVec 2, encCode (encOfCode x) = x.zeroExtend 32 := by decide

theorem discCode_discOfCode : ∀ x : BitVec 2, discCode (discOfCode x) = x.zeroExtend 32 := by decide

/-- Only of a legal code: an illegal one has no class to answer. -/
theorem classCode_classOfCode : ∀ {x : BitVec 4}, (classOfCode x).isSome →
    classCode (classOfCode x) = x.zeroExtend 32 := by decide

/-! ### A command that looks up its key (R170 to R175) -/

/-- The frame around a lookup and what the command makes of the entry. -/
theorem frame_catLookup_entry (g : FieldSpec → State → State) (hb : s.bound = true) (hk : key.toNat ≤ 128)
    (hv : descV (s.catWord key.toNat) = true) :
    (frame true (catKeyOk key) true s fun s => (catLookup (keyNat key) s).andThen g) =
      g (fieldSpec (s.catWord key.toNat) (catRomEntry s.catrom s.catsel key.toNat).desc) (s.begin .none) := by
  have hentry : descV ((s.begin .none).catWord (keyNat key)) = true := hv
  rw [frame_pass _ (fun _ => hb) ((catKeyOk_iff key).2 hk) rfl, catLookup_entry hentry]
  rfl

/-- The lookup fails whatever the command would have made of an entry. -/
theorem frame_catLookup_noEntry (g : FieldSpec → State → State) (hb : s.bound = true) (hk : key.toNat ≤ 128)
    (hv : descV (s.catWord key.toNat) = false) :
    (frame true (catKeyOk key) true s fun s => (catLookup (keyNat key) s).andThen g) =
      { s.errEnd .specError .seNoEntry (some key.toNat) with errinfo := 0 } := by
  have hnone : descV ((s.begin .none).catWord (keyNat key)) = false := hv
  rw [frame_pass _ (fun _ => hb) ((catKeyOk_iff key).2 hk) rfl, catLookup_none hnone, Res.fail_andThen]
  exact begin_none_raise s _ _ _

/-- The scalar that an introspection command answers, once its code is known. -/
theorem introspect_entry (view : FieldSpec → Word) {rv : Word} (hb : s.bound = true) (hk : key.toNat ≤ 128)
    (hv : descV (s.catWord key.toNat) = true)
    (hrv : view (fieldSpec (s.catWord key.toNat) (catRomEntry s.catrom s.catsel key.toNat).desc) = rv) :
    introspect key s view = { s.okEnd with resval := rv } := by
  rw [introspect, frame_catLookup_entry _ hb hk hv, hrv, begin_scalarDone]

/-- Settles O31: each command is one lookup, behind it a code of the entry or its description. -/
theorem introspection : Obligations.Introspection := by
  intro s key hb hk
  refine ⟨fun hv hlegal => ?entry, fun hv i hi => ?noEntry⟩
  case entry =>
    obtain ⟨-, cls, -, hcls, -⟩ := legal_of_checkWord hlegal
    have hdesc : exec (.getDesc key) s =
        .next (resultDone (catRomEntry s.catrom s.catsel key.toNat).desc 0 (s.begin .none)) :=
      congrArg _ (frame_catLookup_entry _ hb hk hv)
    refine ⟨?denc, ?ldisc, ?cls, ?lenc, ?maxlen, fun hfits => ?fits, fun hover => ?overflow⟩
    case denc => exact congrArg _ (introspect_entry _ hb hk hv (encCode_encOfCode _))
    case ldisc => exact congrArg _ (introspect_entry _ hb hk hv (discCode_discOfCode _))
    case cls => exact congrArg _ (introspect_entry _ hb hk hv (classCode_classOfCode (by rw [hcls]; rfl)))
    case lenc => exact congrArg _ (introspect_entry _ hb hk hv (encCode_encOfCode _))
    case maxlen => exact congrArg _ (introspect_entry _ hb hk hv (BitVec.ofNat_toNat 32 _))
    case fits =>
      rw [hdesc]
      exact answers_resultDone 0 hfits
    case overflow => rw [hdesc, resultDone_over 0 hover]
  case noEntry =>
    simp only [List.mem_cons, List.not_mem_nil, or_false] at hi
    rcases hi with rfl | rfl | rfl | rfl | rfl | rfl
    all_goals exact congrArg _ (frame_catLookup_noEntry _ hb hk hv)

end Sys2Proof.Machine

end

section
/-! The bitmap engine: the bits and the bytes of its words (O36), and that DECODE reads back the presence map that BUILD
emits (O37). -/

namespace Sys2Proof.Machine

/-! ### The bits of a word (R180) -/

theorem presBit_eq_getLsbD (p : BitVec 128) {i : Nat} (h1 : 1 ≤ i) (h2 : i ≤ 128) :
    presBit p i = p.getLsbD (128 - i) := by
  simp [presBit, h1, h2]

theorem getLsbD_primaryWord (p : BitVec 128) {i : Nat} (h1 : 1 ≤ i) (h2 : i ≤ 64) :
    (primaryWord p).getLsbD (64 - i) = presBit p i := by
  have hbit : 64 + (64 - i) = 128 - i := by omega
  have hin : 64 - i < 64 := by omega
  rw [presBit_eq_getLsbD p h1 (by omega), primaryWord, BitVec.getLsbD_extractLsb', hbit, decide_eq_true hin,
    Bool.true_and]

theorem getLsbD_secondaryWord (p : BitVec 128) {i : Nat} (h1 : 1 ≤ i) (h2 : i ≤ 64) :
    (secondaryWord p).getLsbD (64 - i) = presBit p (64 + i) := by
  have hbit : 0 + (64 - i) = 128 - (64 + i) := by omega
  have hin : 64 - i < 64 := by omega
  rw [presBit_eq_getLsbD p (by omega) (by omega), secondaryWord, BitVec.getLsbD_extractLsb', hbit,
    decide_eq_true hin, Bool.true_and]

/-! A map made of two words gives them back, so that its bits are known from the two lemmas above. -/

@[simp] theorem primaryWord_presOfWords (w1 w2 : BitmapWord) : primaryWord (presOfWords w1 w2) = w1 :=
  BitVec.extractLsb'_append_eq_left

@[simp] theorem secondaryWord_presOfWords (w1 w2 : BitmapWord) : secondaryWord (presOfWords w1 w2) = w2 :=
  BitVec.extractLsb'_append_eq_right

theorem presOfWords_primaryWord_secondaryWord (p : BitVec 128) : presOfWords (primaryWord p) (secondaryWord p) = p := by
  have hwhole := BitVec.extractLsb'_append_extractLsb'_eq_extractLsb' (x := p) (start₁ := 0) (start₂ := 64)
    (len₁ := 64) (len₂ := 64) rfl
  exact hwhole.trans BitVec.extractLsb'_eq_self

/-! ### The bytes of a word (R181, R187) -/

theorem beBytes_getElem? {w : Nat} (n : Nat) {j : Nat} (hj : j < w) :
    (beBytes w n)[j]? = some (BitVec.ofNat 8 (n / 256 ^ (w - 1 - j))) := by
  induction w generalizing j with
  | zero => omega
  | succ w ih =>
    cases j with
    | zero => rfl
    | succ j => rw [beBytes, List.getElem?_cons_succ, ih (by omega), show w + 1 - 1 - (j + 1) = w - 1 - j by omega]

theorem bytesOfWord_getElem? (w : BitmapWord) {j : Nat} (hj : j < 8) :
    (bytesOfWord w)[j]? = some (w.extractLsb' (56 - 8 * j) 8) := by
  have hpow : 256 ^ (8 - 1 - j) = 2 ^ (56 - 8 * j) := by
    rw [show 56 - 8 * j = 8 * (8 - 1 - j) by omega, pow_mul]
    rfl
  rw [bytesOfWord, beBytes_getElem? _ hj, hpow, ← Nat.shiftRight_eq_div_pow]
  rfl

@[simp] theorem bytesOfWord_length (w : BitmapWord) : (bytesOfWord w).length = 8 := beBytes_length 8 w.toNat

@[simp] theorem wordOfBytes_bytesOfWord (w : BitmapWord) : wordOfBytes (bytesOfWord w) = w := by
  have hlt : w.toNat < 256 ^ 8 := w.isLt
  rw [wordOfBytes, bytesOfWord, beNat_beBytes, Nat.mod_eq_of_lt hlt, BitVec.ofNat_toNat, BitVec.setWidth_eq]

/-- Settles O36: the bits of a map's words, of a map made of words, and the bytes of a word. -/
theorem bitmapBits : Obligations.BitmapBits := by
  refine ⟨fun p i h1 h2 => ⟨getLsbD_primaryWord p h1 h2, getLsbD_secondaryWord p h1 h2⟩, fun w1 w2 i h1 h2 => ?_,
    fun w j hj => bytesOfWord_getElem? w hj, fun w => ⟨bytesOfWord_length w, wordOfBytes_bytesOfWord w⟩⟩
  have hprimary := getLsbD_primaryWord (presOfWords w1 w2) h1 h2
  have hsecondary := getLsbD_secondaryWord (presOfWords w1 w2) h1 h2
  rw [primaryWord_presOfWords] at hprimary
  rw [secondaryWord_presOfWords] at hsecondary
  exact ⟨hprimary.symm, hsecondary.symm⟩

/-! ### Bytes that stand at the cursor (R66) -/

/-- The next bytes that DECODE has received are `v`. -/
def State.Receives (s : State) (v : Bytes) : Prop :=
  s.cursor + v.length ≤ s.rxlen ∧ memReadRange s.rxbuf s.cursor v.length = v

/-- The state that has consumed `n` bytes. -/
def State.advance (s : State) (n : Nat) : State := { s with cursor := s.cursor + n }

theorem State.Receives.take {s : State} {v : Bytes} (h : s.Receives v) (k : Nat) :
    take v.length k s = .val v (s.advance v.length) := by
  obtain ⟨hin, hread⟩ := h
  rw [take_ok hin, hread, State.advance]

theorem State.Receives.of_append {s : State} {v w : Bytes} (h : s.Receives (v ++ w)) :
    s.Receives v ∧ (s.advance v.length).Receives w := by
  obtain ⟨hin, hread⟩ := h
  rw [List.length_append] at hin hread
  rw [memReadRange_add] at hread
  obtain ⟨hv, hw⟩ := List.append_inj hread (memReadRange_length ..)
  exact ⟨⟨by omega, hv⟩, ⟨by simp only [State.advance]; omega, hw⟩⟩

/-! ### Two emissions one behind the other (R68) -/

theorem Emitted.append {s t u : State} {v w : Bytes} (h : Emitted s t v) (h' : Emitted t u w) :
    Emitted s u (v ++ w) := by
  obtain ⟨hlen, hstored⟩ := h
  obtain ⟨hlen', hstored'⟩ := h'
  refine ⟨by rw [hlen', hlen, List.length_append, Nat.add_assoc], hstored.append ?_⟩
  rwa [hlen] at hstored'

/-- An emission writes TXBUF and TXLEN only. -/
theorem eq_of_emit {v : Bytes} {s t : State} (h : emit v s = .val () t) :
    t = { s with txbuf := t.txbuf, txlen := t.txlen } := by
  rcases emit_cases v s with ⟨-, hval⟩ | hfail
  · rw [hval] at h
    cases h
    rfl
  · rw [hfail] at h
    cases h

/-! ### One word written and read (R181, R187) -/

@[simp] theorem fieldSpec_denc (d : Word) (desc : Bytes) : (fieldSpec d desc).denc = descEnc d := rfl

theorem buildWord_eq_some {d : Word} {w : BitmapWord} {v : Bytes} : buildWord d w = some v ↔
    descV d = true ∧ (descEnc d = some .bin ∧ bytesOfWord w = v ∨
      descEnc d = some .ascii ∧ hexEncode (bytesOfWord w) = v) := by
  unfold buildWord
  rcases descEnc d with _ | _ | _ | _ <;> simp

/-- A word that is written is emitted as the bytes of the reference function `buildWord`. -/
theorem emit_of_writeWord {w : BitmapWord} {s t : State} (h : writeWord w s = .val () t) :
    ∃ v, buildWord (s.catWord 1) w = some v ∧ emit v s = .val () t := by
  simp only [buildWord_eq_some]
  cases hv : descV (s.catWord 1) with
  | false =>
    rw [writeWord, catLookup_none hv] at h
    cases h
  | true =>
    rw [writeWord, catLookup_entry hv, Res.bind_val, fieldSpec_denc] at h
    cases henc : descEnc (s.catWord 1) with
    | none => rw [henc] at h; cases h
    | some enc =>
      rw [henc] at h
      cases enc with
      | ascii => exact ⟨_, ⟨rfl, .inr ⟨rfl, rfl⟩⟩, h⟩
      | bcd => cases h
      | bin => exact ⟨_, ⟨rfl, .inl ⟨rfl, rfl⟩⟩, h⟩

/-- The bytes of `buildWord` are read back as the word. -/
theorem readWord_of_receives {w : BitmapWord} {u : State} {v : Bytes} (hb : buildWord (u.catWord 1) w = some v)
    (hr : u.Receives v) : readWord u = .val w (u.advance v.length) := by
  obtain ⟨hv, ⟨henc, rfl⟩ | ⟨henc, rfl⟩⟩ := buildWord_eq_some.1 hb
  · have htake := hr.take 1
    rw [bytesOfWord_length] at htake ⊢
    simp only [readWord, catLookup_entry hv, Res.bind_val, fieldSpec_denc, henc, htake, wordOfBytes_bytesOfWord]
  · have htake := hr.take 1
    rw [hexEncode_length, bytesOfWord_length] at htake ⊢
    simp only [readWord, catLookup_entry hv, Res.bind_val, fieldSpec_denc, henc, htake, hexDecode_hexEncode,
      wordOfBytes_bytesOfWord]

/-! ### The bitmap written (R186, R188) -/

theorem activate_eq (s : State) : activate s = { s with pres := activated s.pres } := by
  unfold activate activated
  split <;> rfl

/-- PRES[1] stands for the secondary word: it is 1 whenever a field above 64 is present (R186). -/
theorem secondaryWord_activated {p : BitVec 128} (h : presBit (activated p) 1 = false) :
    secondaryWord (activated p) = 0 := by
  unfold activated at h ⊢
  split at h
  · next hzero => rw [if_pos hzero, hzero]
  · simp [presBit_presSet] at h

theorem buildBitmap_one {d : Word} {p : BitVec 128} (h : presBit p 1 = false) :
    buildBitmap d p = buildWord d (primaryWord p) := by
  simp [buildBitmap, h]

theorem buildBitmap_two {d : Word} {p : BitVec 128} {v : Bytes} (h : presBit p 1 = true) :
    buildBitmap d p = some v ↔
      ∃ v1 v2, buildWord d (primaryWord p) = some v1 ∧ buildWord d (secondaryWord p) = some v2 ∧ v1 ++ v2 = v := by
  simp [buildBitmap, h, Option.bind_eq_some_iff]

/-- What the engine emits is the reference bitmap of the activated map, which it leaves in PRES. -/
theorem emitted_bitmapEncode {s t : State} (h : bitmapEncode s = .val () t) :
    t.pres = activated s.pres ∧ ∃ v, buildBitmap (s.catWord 1) (activated s.pres) = some v ∧ Emitted s t v := by
  rw [bitmapEncode, activate_eq] at h
  generalize hw1 : writeWord _ _ = r1 at h
  cases r1 with
  | stop => cases h
  | val _ m =>
    obtain ⟨v1, hv1, he1⟩ := emit_of_writeWord hw1
    have hm := eq_of_emit he1
    have hem1 : Emitted s m v1 := emitted_emit (s := { s with pres := activated s.pres }) he1
    have hpres : m.pres = activated s.pres := by rw [hm]
    have hcat : m.catWord 1 = s.catWord 1 := by rw [hm]; rfl
    rw [Res.bind_val] at h
    cases hp : presBit m.pres 1 with
    | false =>
      rw [hp] at h
      cases h
      exact ⟨hpres, v1, (buildBitmap_one (hpres ▸ hp)).trans hv1, hem1⟩
    | true =>
      rw [hp] at h
      obtain ⟨v2, hv2, he2⟩ := emit_of_writeWord h
      rw [hcat, hpres] at hv2
      exact ⟨by rw [eq_of_emit he2]; exact hpres, v1 ++ v2, (buildBitmap_two (hpres ▸ hp)).2 ⟨v1, v2, hv1, hv2, rfl⟩,
        hem1.append (emitted_emit he2)⟩

/-! ### The bitmap read (R182) -/

/-- Two words replace the whole map. -/
theorem setPrimary_setSecondary (s : State) (w1 w2 : BitmapWord) :
    (s.setPrimary w1).setSecondary w2 = { s with pres := presOfWords w1 w2 } := by
  simp [State.setSecondary, State.setPrimary]

theorem advance_setPrimary_advance (s : State) (m n : Nat) (w : BitmapWord) :
    ((s.advance m).setPrimary w).advance n = (s.advance (m + n)).setPrimary w := by
  simp [State.advance, State.setPrimary, Nat.add_assoc]

/-- Bit 63 of the primary word is PRES[1], whatever the secondary word. -/
theorem presBit_setPrimary_one (s : State) (p : BitVec 128) :
    presBit (s.setPrimary (primaryWord p)).pres 1 = presBit p 1 := by
  have hbit (q : BitVec 128) : (primaryWord q).getLsbD (64 - 1) = presBit q 1 :=
    getLsbD_primaryWord q (Nat.le_refl 1) (by decide)
  rw [← hbit, ← hbit, State.setPrimary_pres, primaryWord_presOfWords]

/-- The reference bitmap of a map in which PRES[1] stands for the secondary word is read back as the map. -/
theorem bitmapDecode_of_receives {p : BitVec 128} {u : State} {v : Bytes} (hb : buildBitmap (u.catWord 1) p = some v)
    (hsec : presBit p 1 = false → secondaryWord p = 0) (hr : u.Receives v) :
    bitmapDecode u = .val () { u with pres := p, cursor := u.cursor + v.length } := by
  cases hp : presBit p 1 with
  | false =>
    rw [buildBitmap_one hp] at hb
    rw [bitmapDecode, readWord_of_receives hb hr, Res.bind_val, presBit_setPrimary_one, hp, setPrimary_setSecondary,
      ← hsec hp, presOfWords_primaryWord_secondaryWord]
    rfl
  | true =>
    obtain ⟨v1, v2, hv1, hv2, rfl⟩ := (buildBitmap_two hp).1 hb
    obtain ⟨hr1, hr2⟩ := hr.of_append
    have hread : readWord ((u.advance v1.length).setPrimary (primaryWord p)) =
        .val (secondaryWord p) (((u.advance v1.length).setPrimary (primaryWord p)).advance v2.length) :=
      readWord_of_receives hv2 hr2
    rw [bitmapDecode, readWord_of_receives hv1 hr1, Res.bind_val, presBit_setPrimary_one, hp, if_pos rfl, hread,
      Res.bind_val, advance_setPrimary_advance, setPrimary_setSecondary, presOfWords_primaryWord_secondaryWord,
      List.length_append]
    rfl

/-- Settles O37: what BUILD emits is the reference bitmap of the map it leaves, and that bitmap is read as the map. -/
theorem bitmapSymmetry : Obligations.BitmapSymmetry := by
  intro s t u n henc hn hrom hsel hin hread
  obtain ⟨hpres, v, hbuild, hlen, hstored, -⟩ := emitted_bitmapEncode henc
  obtain rfl : v.length = n := Nat.add_left_cancel (hlen.symm.trans hn)
  have hreceives : u.Receives v := ⟨hin, hread.trans hstored⟩
  have hcat : u.catWord 1 = s.catWord 1 := by rw [State.catWord, State.catWord, hrom, hsel]
  rw [hpres]
  exact bitmapDecode_of_receives (hcat ▸ hbuild) secondaryWord_activated hreceives

end Sys2Proof.Machine

end

section
/-! The MTI validator and the set path: the validator passes exactly the texts of the enumeration and names the first
check that fails (O23); SET_MTI stores a legal text of one to four digits (O21) and rejects every other (O22). -/

namespace Sys2Proof.Machine

/-! ### Texts of four digits (R9, R200) -/

/-- The text that four digits spell. -/
def mtiText (d0 d1 d2 d3 : Nat) : Bytes :=
  [BitVec.ofNat 8 (48 + d0), BitVec.ofNat 8 (48 + d1), BitVec.ofNat 8 (48 + d2), BitVec.ofNat 8 (48 + d3)]

/-- A digit character is the character of its value, which is at most 9. -/
theorem digit_eq_ofNat {c : Byte} (h : isDigit c = true) :
    c = BitVec.ofNat 8 (48 + digitVal c) ∧ digitVal c ≤ 9 := by
  obtain ⟨hlo, hhi⟩ := (isDigit_iff c).1 h
  rw [digitVal, Nat.add_sub_cancel' hlo]
  exact ⟨BitVec.eq_of_toNat_eq (Nat.mod_eq_of_lt c.isLt).symm, by omega⟩

section Digits

variable {d0 d1 d2 d3 : Nat} (h0 : d0 ≤ 9) (h1 : d1 ≤ 9) (h2 : d2 ≤ 9) (h3 : d3 ≤ 9)
include h0 h1 h2 h3

theorem isNum_mtiText : isNum (mtiText d0 d1 d2 d3) = true := by
  have hdigit {d : Nat} (h : d ≤ 9) := (digitVal_ofNat d (Nat.lt_succ_of_le h)).2
  simp [mtiText, isNum_iff, hdigit h0, hdigit h1, hdigit h2, hdigit h3]

/-- The components read off the text (R211). -/
theorem digitVal_mtiText :
    digitVal ((mtiText d0 d1 d2 d3).getD 0 0) = d0 ∧ digitVal ((mtiText d0 d1 d2 d3).getD 1 0) = d1 ∧
      digitVal ((mtiText d0 d1 d2 d3).getD 2 0) = d2 ∧ digitVal ((mtiText d0 d1 d2 d3).getD 3 0) = d3 := by
  have hval {d : Nat} (h : d ≤ 9) := (digitVal_ofNat d (Nat.lt_succ_of_le h)).1
  exact ⟨hval h0, hval h1, hval h2, hval h3⟩

end Digits

theorem exists_mtiText_of_isNum {t : Bytes} (hlen : t.length = 4) (hnum : isNum t = true) :
    ∃ d0 d1 d2 d3, d0 ≤ 9 ∧ d1 ≤ 9 ∧ d2 ≤ 9 ∧ d3 ≤ 9 ∧ t = mtiText d0 d1 d2 d3 := by
  obtain ⟨a, b, c, d, rfl⟩ := List.length_eq_four.1 hlen
  obtain ⟨-, hall⟩ := (isNum_iff _).1 hnum
  simp only [List.all_cons, List.all_nil, Bool.and_eq_true, Bool.and_true] at hall
  obtain ⟨ha, hb, hc, hd⟩ := hall
  obtain ⟨ea, la⟩ := digit_eq_ofNat ha
  obtain ⟨eb, lb⟩ := digit_eq_ofNat hb
  obtain ⟨ec, lc⟩ := digit_eq_ofNat hc
  obtain ⟨ed, ld⟩ := digit_eq_ofNat hd
  refine ⟨_, _, _, _, la, lb, lc, ld, ?_⟩
  rw [mtiText, ← ea, ← eb, ← ec, ← ed]

/-! ### The validator (R204) -/

theorem versionLegal_iff (d : Nat) : versionLegal d = true ↔ d ∈ [0, 1, 2, 8, 9] := by
  simp [versionLegal, or_assoc]

/-- The first check of R204: another length, or a character below '0' or above '9'. -/
theorem mtiCheck_nonnum {t : Bytes} (strict : Bool) (h : t.length ≠ 4 ∨ ∃ c ∈ t, c.toNat < 48 ∨ 57 < c.toNat) :
    mtiCheck t strict = some .mtiNonnum := by
  have hfails : t.length ≠ 4 ∨ (!isNum t) = true := by
    refine h.imp_right fun ⟨c, hc, hout⟩ => ?_
    have hdigit : ¬ isDigit c = true := by
      rw [isDigit_iff]
      omega
    have hnum : ¬ isNum t = true := fun hn => hdigit (List.all_eq_true.1 ((isNum_iff t).1 hn).2 c hc)
    simpa using hnum
  exact if_pos hfails

section Digits

variable {d0 d1 d2 d3 : Nat} (strict : Bool) (h0 : d0 ≤ 9) (h1 : d1 ≤ 9) (h2 : d2 ≤ 9) (h3 : d3 ≤ 9)
include h0 h1 h2 h3

/-- The checks of R204 behind the first one, on the digits themselves. -/
theorem mtiCheck_mtiText : mtiCheck (mtiText d0 d1 d2 d3) strict =
    if strict = true ∧ d1 = 0 then some .mtiStrictClass
    else if strict = true ∧ 5 < d3 then some .mtiStrictOrigin
    else if d0 ∉ [0, 1, 2, 8, 9] then some .mtiVersion
    else if d1 = 0 then some .mtiClass
    else if 7 < d2 then some .mtiFunction
    else if 5 < d3 then some .mtiOrigin
    else none := by
  have hfirst : ¬ ((mtiText d0 d1 d2 d3).length ≠ 4 ∨ (!isNum (mtiText d0 d1 d2 d3)) = true) := by
    rw [isNum_mtiText h0 h1 h2 h3]
    exact not_or_intro (not_not_intro rfl) nofun
  have hversion : (!versionLegal d0) = true ↔ d0 ∉ [0, 1, 2, 8, 9] := by
    rw [Bool.not_eq_true', ← Bool.not_eq_true, versionLegal_iff]
  have hclass : ¬ (1 ≤ d1 ∧ d1 ≤ 9) ↔ d1 = 0 := by omega
  obtain ⟨e0, e1, e2, e3⟩ := digitVal_mtiText h0 h1 h2 h3
  rw [mtiCheck, if_neg hfirst]
  simp only [e0, e1, e2, e3, hversion, hclass, Nat.not_le]

/-- The texts of the enumeration (R202) pass, whatever STRICT is (R206). -/
theorem mtiCheck_mtiText_eq_none_iff :
    mtiCheck (mtiText d0 d1 d2 d3) strict = none ↔ d0 ∈ [0, 1, 2, 8, 9] ∧ 1 ≤ d1 ∧ d2 ≤ 7 ∧ d3 ≤ 5 := by
  obtain ⟨e0, e1, e2, e3⟩ := digitVal_mtiText h0 h1 h2 h3
  rw [mtiCheck_eq_none, e0, e1, e2, e3, versionLegal_iff]
  exact ⟨fun ⟨_, _, hv, ⟨hc, _⟩, hf, ho⟩ => ⟨hv, hc, hf, ho⟩, fun ⟨hv, hc, hf, ho⟩ =>
    ⟨⟨rfl, isNum_mtiText h0 h1 h2 h3⟩, fun _ => ⟨Nat.ne_of_gt hc, ho⟩, hv, ⟨hc, h1⟩, hf, ho⟩⟩

end Digits

/-- Settles O23: a text that passes is one of four digits, and on those the checks are read off the digits. -/
theorem mtiEnumeration : Obligations.MtiEnumeration := by
  refine ⟨fun t strict => ⟨fun hpass => ?spelled, ?passes⟩, fun t strict => mtiCheck_nonnum strict,
    fun d0 d1 d2 d3 strict => mtiCheck_mtiText strict⟩
  case spelled =>
    obtain ⟨⟨hlen, hnum⟩, -⟩ := mtiCheck_eq_none.1 hpass
    obtain ⟨d0, d1, d2, d3, h0, h1, h2, h3, rfl⟩ := exists_mtiText_of_isNum hlen hnum
    obtain ⟨hv, hc, hf, ho⟩ := (mtiCheck_mtiText_eq_none_iff strict h0 h1 h2 h3).1 hpass
    exact ⟨d0, d1, d2, d3, hv, hc, h1, hf, ho, rfl⟩
  case passes =>
    rintro ⟨d0, d1, d2, d3, hv, hc, h1, hf, ho, rfl⟩
    have h0 : d0 ≤ 9 := (by decide : ∀ d ∈ [0, 1, 2, 8, 9], d ≤ 9) d0 hv
    exact (mtiCheck_mtiText_eq_none_iff strict h0 h1 (by omega) (by omega)).2 ⟨hv, hc, hf, ho⟩

/-! ### The set path (R208) -/

section SetPath

variable {t : Bytes} (s : State)

theorem mtiSet_length_fails (h : t.length = 0 ∨ 4 < t.length) :
    mtiSet t s = .fail { s with errinfo := packText (t.take 4) } .reject .rjMtiLen (some 0) := if_pos h

theorem mtiSet_nonnum_fails (h1 : 1 ≤ t.length) (h4 : t.length ≤ 4) (hnum : isNum t = false) :
    mtiSet t s = .fail { s with errinfo := packText (padL t 0x30 4) } .reject .mtiNonnum (some 0) := by
  rw [mtiSet, if_neg (by omega), hnum]
  rfl

theorem mtiSet_illegal_fails {c : Cause} (h1 : 1 ≤ t.length) (h4 : t.length ≤ 4) (hnum : isNum t = true)
    (hc : mtiCheck (padL t 0x30 4) s.strict = some c) :
    mtiSet t s = .fail { s with errinfo := packText (padL t 0x30 4) } .reject c (some 0) := by
  rw [mtiSet, if_neg (by omega), hnum, hc]
  rfl

theorem mtiSet_legal (h1 : 1 ≤ t.length) (h4 : t.length ≤ 4) (hnum : isNum t = true)
    (hc : mtiCheck (padL t 0x30 4) s.strict = none) : mtiSet t s = .val () (s.storeMti (padL t 0x30 4)) := by
  rw [mtiSet, if_neg (by omega), hnum, hc]
  rfl

end SetPath

/-! ### SET_MTI (R304) -/

section SetMti

variable {s : State} (hb : s.bound = true)
include hb

/-- SET_MTI is the set path on the operand. -/
theorem exec_setMti :
    exec .setMti s = .next ((mtiSet s.operand (s.begin .none)).andThen fun _ u => u.finish) :=
  congrArg _ (frame_pass _ (fun _ => hb) rfl rfl)

/-- The set path stores a text. -/
theorem exec_setMti_of_store {t : Bytes} (h : mtiSet s.operand (s.begin .none) = .val () ((s.begin .none).storeMti t)) :
    exec .setMti s = .next { s.okEnd with mti := mtiOfBytes t, mtiValid := true } := by
  rw [exec_setMti hb, h]
  rfl

/-- The set path rejects, with the candidate text in ERRINFO. -/
theorem exec_setMti_of_reject {c : Cause} {info : Word}
    (h : mtiSet s.operand (s.begin .none) = .fail { s.begin .none with errinfo := info } .reject c (some 0)) :
    exec .setMti s = .next { s.errEnd .reject c (some 0) with errinfo := info } := by
  rw [exec_setMti hb, h]
  rfl

end SetMti

/-- Settles O21: the padded text is what the set path stores. -/
theorem setMtiAccepts : Obligations.SetMtiAccepts := by
  intro s hb h1 h4 hnum hc
  rw [← operand_length s] at h1 h4
  exact ⟨mtiOfBytes (padL s.operand 0x30 4), mtiBytes_mtiOfBytes (mtiCheck_length hc),
    exec_setMti_of_store hb (mtiSet_legal (s.begin .none) h1 h4 hnum hc)⟩

/-- Character `i` of a text in ERRINFO, zero behind its end (R39). -/
theorem packText_extractLsb' (t : Bytes) {i : Nat} (hi : i < 4) :
    (packText t).extractLsb' (24 - 8 * i) 8 = t.getD i 0 := by
  change BitVec.extractLsb' (n := 8 + 8 + 8 + 8) (24 - 8 * i) 8 (_ ++ _) = _
  interval_cases i
  all_goals simp (disch := decide) only [BitVec.extractLsb'_append_eq_of_le, BitVec.extractLsb'_append_eq_of_add_le,
    Nat.reduceMul, Nat.reduceSub, BitVec.extractLsb'_eq_self]

/-- Settles O22: the three ways the set path rejects, and the packing of the text it rejects. -/
theorem setMtiRejects : Obligations.SetMtiRejects := by
  refine ⟨fun t i => packText_extractLsb' t, fun s hb => ?_⟩
  rw [← operand_length s]
  exact ⟨fun h => exec_setMti_of_reject hb (mtiSet_length_fails _ h),
    fun h1 h4 hnum => exec_setMti_of_reject hb (mtiSet_nonnum_fails _ h1 h4 hnum),
    fun c h1 h4 hnum hc => exec_setMti_of_reject hb (mtiSet_illegal_fails _ h1 h4 hnum hc)⟩

end Sys2Proof.Machine

end

section
/-! The field micro-operations of the decode path (O38 to O46): the length stage ends in the length that its bytes
spell, the value stage in the value that its bytes spell, and either may end the DECODE. Each row of the opcode table
is one of the shared operations, at one width. -/

namespace Sys2Proof.Machine

variable {s : State} {d : Word} {n w : Nat}

theorem decToNat_eq_none_of_isNum {t : Bytes} (h : isNum t = false) : decToNat t = none := by
  simp [decToNat, h]

/-- A raise while DECODE runs, once `n` bytes have been taken. -/
theorem raise_advance_decode (h : s.running = .decode) (n : Nat) (k : Kind) (c : Cause) (key : Option Nat) :
    (s.advance n).raise k c key = { s.errEnd k c key with cursor := s.cursor + n } :=
  raise_decode (s.advance n) k c key h

/-- Whatever a stage does with the bytes, an underrun ends the DECODE before. -/
theorem take_short_decode {g : Bytes → State → State} (hr : s.running = .decode) (h : s.rxlen < s.cursor + n) :
    (take n s.fidx s).andThen g = s.errEnd .parseError .peUnderrun (some s.fidx) := by
  rw [take_short h, Res.fail_andThen, raise_decode _ _ _ _ hr]

/-! ### The length stage (R224 to R229) -/

/-- A length within the maximum goes to the value stage, or ends the field as Absent where it is 0. -/
theorem lengthKnown_advance (h : n ≤ descEffmax d) :
    (n ≠ 0 → lengthKnown d n (s.advance w) = { s with cursor := s.cursor + w, len := n, stage := some .dval }) ∧
      (n = 0 → FieldStored s (lengthKnown d n (s.advance w)) w .absent) := by
  refine ⟨fun h0 => lengthKnown_value h h0, ?_⟩
  rintro rfl
  rw [lengthKnown_zero]
  exact storeField_spec s w .absent

/-- What a row of the length stage does once its operation has found the length `n` behind `w` bytes. -/
theorem lengthStage_outcome {o : Out} (ho : o = .next (lengthKnown d n (s.advance w))) (h : n ≤ descEffmax d) :
    (n ≠ 0 → o = .next { s with cursor := s.cursor + w, len := n, stage := some .dval }) ∧
      (n = 0 → ∃ t, o = .next t ∧ FieldStored s t w .absent) := by
  obtain ⟨hvalue, habsent⟩ := lengthKnown_advance (s := s) (w := w) h
  exact ⟨fun h0 => ho.trans (congrArg _ (hvalue h0)), fun h0 => ⟨_, ho, habsent h0⟩⟩

theorem lengthAscii_numeric (hin : s.cursor + w ≤ s.rxlen) (hn : decToNat (memReadRange s.rxbuf s.cursor w) = some n) :
    lengthAscii w d s = lengthKnown d n (s.advance w) := by
  simp [lengthAscii, take_ok hin, lengthDigits, hn, State.advance]

theorem lengthBcd_numeric (hin : s.cursor + ceil2 w ≤ s.rxlen)
    (hn : decToNat (bcdDecode (memReadRange s.rxbuf s.cursor (ceil2 w))) = some n) :
    lengthBcd w d s = lengthKnown d n (s.advance (ceil2 w)) := by
  simp [lengthBcd, take_ok hin, lengthDigits, hn, State.advance]

theorem lengthBin_beBytes (hm : s.params.binLenMode = .beBytes) (hin : s.cursor + w ≤ s.rxlen) :
    lengthBin w d s = lengthKnown d (beNat (memReadRange s.rxbuf s.cursor w)) (s.advance w) := by
  simp [lengthBin, hm, take_ok hin, State.advance]

/-- The maximum of a descriptor by its codes (R13). -/
theorem descEffmax_codes (d : Word) : descEffmax d =
    if descDenc d = 1 ∧ descCls d = 7 then 2 * (descMaxlen d).toNat else (descMaxlen d).toNat := by
  have hcls : ∀ x : BitVec 4, classOfCode x = some .clsB ↔ x = 7 := by decide
  simp only [descEffmax, effmax, fieldSpec, encOfCode_eq_ascii_iff, hcls]

theorem decodeMicro_dlen_fixed (hv : descV d = true) (h0 : descLdisc d = 0) :
    decodeMicro .dlen d = .ok (.dlenFixed d) := by
  simp only [decodeMicro, hv, h0]
  rfl

/-- Settles O38: the selection, the maximum by its codes, and the maximum as a length that is known at once. -/
theorem dlenFixed : Obligations.DlenFixed :=
  ⟨fun _ => decodeMicro_dlen_fixed, descEffmax_codes,
    fun s _ => lengthStage_outcome (s := s) (w := 0) rfl (Nat.le_refl _)⟩

/-- Settles O39: the three rows are `lengthAscii` at the widths 1, 2 and 3. -/
theorem dlenAscii : Obligations.DlenAscii := by
  intro s d n x hx hin hn hmax
  simp only [List.mem_cons, List.not_mem_nil, or_false] at hx
  rcases hx with rfl | rfl | rfl
  all_goals exact lengthStage_outcome (congrArg _ (lengthAscii_numeric hin hn)) hmax

/-- Settles O40: the three rows are `lengthBcd` at the widths 1, 2 and 3 in digits. -/
theorem dlenBcd : Obligations.DlenBcd := by
  intro s d n x hx hin hn hmax
  simp only [List.mem_cons, List.not_mem_nil, or_false] at hx
  rcases hx with rfl | rfl | rfl
  · exact lengthStage_outcome (congrArg _ (lengthBcd_numeric (w := 1) hin hn)) hmax
  · exact lengthStage_outcome (congrArg _ (lengthBcd_numeric (w := 2) hin hn)) hmax
  · exact lengthStage_outcome (congrArg _ (lengthBcd_numeric (w := 3) hin hn)) hmax

/-- Settles O41: the three rows are `lengthBin` at the widths 1, 2 and 3. -/
theorem dlenBin : Obligations.DlenBin := by
  rintro s d n x hx hm hin rfl hmax
  simp only [List.mem_cons, List.not_mem_nil, or_false] at hx
  rcases hx with rfl | rfl | rfl
  all_goals exact lengthStage_outcome (congrArg _ (lengthBin_beBytes hm hin)) hmax

/-! ### How the length stage ends a DECODE (R225 to R228) -/

theorem lengthBin_refuse (hr : s.running = .decode) (hm : s.params.binLenMode = .refuse) :
    lengthBin w d s = s.errEnd .specError .seHdrEnc (some s.fidx) := by
  simp only [lengthBin, hm, raise_decode _ _ _ _ hr]

theorem lengthBin_short (hr : s.running = .decode) (hm : s.params.binLenMode = .beBytes) (h : s.rxlen < s.cursor + w) :
    lengthBin w d s = s.errEnd .parseError .peUnderrun (some s.fidx) := by
  simp only [lengthBin, hm, take_short_decode hr h]

/-- A length above the maximum, the cursor behind its bytes. -/
theorem lengthKnown_advance_over (hr : s.running = .decode) (h : descEffmax d < n) : lengthKnown d n (s.advance w) =
    { s.errEnd .parseError .peLenTooLarge (some s.fidx) with cursor := s.cursor + w } :=
  (lengthKnown_over h).trans (raise_advance_decode hr w _ _ _)

/-- A length in digits: `w` bytes are taken, and `f` gives their characters. -/
theorem lengthDigits_fails {f : Bytes → Bytes} {o : Out} (hr : s.running = .decode)
    (ho : o = .next ((take w s.fidx s).andThen fun bs u => lengthDigits d (f bs) u)) :
    (s.rxlen < s.cursor + w → o = .next (s.errEnd .parseError .peUnderrun (some s.fidx))) ∧
      (s.cursor + w ≤ s.rxlen → isNum (f (memReadRange s.rxbuf s.cursor w)) = false →
        o = .next { s.errEnd .parseError .peLenNonnum (some s.fidx) with cursor := s.cursor + w }) ∧
      (∀ n, s.cursor + w ≤ s.rxlen → decToNat (f (memReadRange s.rxbuf s.cursor w)) = some n → descEffmax d < n →
        o = .next { s.errEnd .parseError .peLenTooLarge (some s.fidx) with cursor := s.cursor + w }) := by
  refine ⟨fun h => ?_, fun hin hnum => ?_, fun n hin hn hmax => ?_⟩
  · rw [ho, take_short_decode hr h]
  · rw [ho, take_ok hin, Res.andThen_val, lengthDigits, decToNat_eq_none_of_isNum hnum]
    exact congrArg _ (raise_advance_decode hr w _ _ _)
  · rw [ho, take_ok hin, Res.andThen_val, lengthDigits, hn]
    exact congrArg _ (lengthKnown_advance_over hr hmax)

/-- Settles O42: the BIN rows by the mode, the six others by what `lengthDigits_fails` says of digits. -/
theorem dlenRefuses : Obligations.DlenRefuses := by
  refine fun s d hr => ⟨fun x hx => ?_, fun x hx => ?_⟩
  · simp only [List.mem_cons, List.not_mem_nil, or_false] at hx
    rcases hx with rfl | rfl | rfl
    all_goals exact ⟨fun hm => congrArg _ (lengthBin_refuse hr hm), fun hm h => congrArg _ (lengthBin_short hr hm h),
      fun hm hin hmax => congrArg _ ((lengthBin_beBytes hm hin).trans (lengthKnown_advance_over hr hmax))⟩
  · simp only [List.mem_cons, List.not_mem_nil, or_false] at hx
    rcases hx with rfl | rfl | rfl | rfl | rfl | rfl
    case inl | inr.inl | inr.inr.inl => exact lengthDigits_fails (f := id) hr rfl
    all_goals exact lengthDigits_fails (f := bcdDecode) hr rfl

/-! ### The value stage (R234 to R238) -/

/-- A value whose `n` bytes were received is stored, the cursor behind them. -/
theorem take_storeField (hin : s.cursor + n ≤ s.rxlen) (f : Bytes → Value) :
    FieldStored s ((take n s.fidx s).andThen fun bs u => u.storeField (f bs)) n
      (f (memReadRange s.rxbuf s.cursor n)) := by
  rw [take_ok hin]
  exact storeField_spec s n _

/-- Digits behind `n` bytes give a number. -/
theorem take_valueDigits {k : Nat} {f : Bytes → Bytes} (hin : s.cursor + n ≤ s.rxlen)
    (hk : decToNat (f (memReadRange s.rxbuf s.cursor n)) = some k) :
    FieldStored s ((take n s.fidx s).andThen fun bs u => valueDigits (f bs) u) n (.int k) := by
  rw [take_ok hin, Res.andThen_val, valueDigits, hk]
  exact storeField_spec s n _

/-- Settles O43: the two rows take their bytes and read them as digits. -/
theorem dvalNumber : Obligations.DvalNumber := fun _ _ _ =>
  ⟨fun hin hn => ⟨_, rfl, take_valueDigits (f := id) hin hn⟩,
    fun hin hn => ⟨_, rfl, take_valueDigits (f := bcdDecode) hin hn⟩⟩

/-- The eight rows of text under ASCII are one operation. -/
theorem exec_dvalText {i : Instr} (hi : i ∈ [Instr.dvalAsciiTA d, .dvalAsciiTS d, .dvalAsciiTAn d, .dvalAsciiTAs d,
    .dvalAsciiTNs d, .dvalAsciiTAns d, .dvalAsciiTB d, .dvalAsciiTZ d]) : exec i s = .next (valueAsciiText s) := by
  simp only [List.mem_cons, List.not_mem_nil, or_false] at hi
  rcases hi with rfl | rfl | rfl | rfl | rfl | rfl | rfl | rfl <;> rfl

/-- Every legal class but n has a row of text under ASCII. -/
theorem decodeMicro_dval_text (hv : descV d = true) (he : descDenc d = 1) (hn : descCls d ≠ 1)
    (hc : (descCls d).toNat ≤ 8) : ∃ i ∈ [Instr.dvalAsciiTA d, .dvalAsciiTS d, .dvalAsciiTAn d, .dvalAsciiTAs d,
      .dvalAsciiTNs d, .dvalAsciiTAns d, .dvalAsciiTB d, .dvalAsciiTZ d], decodeMicro .dval d = .ok i := by
  have henc : encOfCode (descDenc d) = some .ascii := by rw [he]; rfl
  have hnum : ∀ {x : BitVec 4}, classOfCode x = some .clsN → x = 1 := by decide
  cases hcls : classOfCode (descCls d) with
  | none => exact absurd ((classOfCode_eq_none_iff _).1 hcls) (by omega)
  | some cls =>
    simp only [decodeMicro, hv, henc, hcls]
    cases cls with
    | clsN => exact absurd (hnum hcls) hn
    | _ => simp

/-- Settles O44: the selection, and `valueAsciiText` with and without an underrun. -/
theorem dvalText : Obligations.DvalText := by
  refine ⟨fun d => decodeMicro_dval_text, fun s d i hi => ?_⟩
  rw [exec_dvalText hi]
  exact ⟨fun hin => ⟨_, rfl, take_storeField hin .text⟩, fun hr h => congrArg _ (take_short_decode hr h)⟩

/-- What track 2 makes of hexadecimal text whose `D`s have become `=` (R237). -/
theorem trackDecode_cases {t u : Bytes} (hu : u = t.map fun c => if c = 0x44#8 then 0x3D else c) :
    (u.getLast? = some 0x46#8 → trackDecode t = u.dropLast) ∧ (u.getLast? ≠ some 0x46#8 → trackDecode t = u) := by
  subst hu
  exact ⟨fun hf => if_pos hf, fun hf => if_neg hf⟩

/-- Settles O45: track 2 and the three rows of BIN store a text made of the bytes. -/
theorem dvalHexText : Obligations.DvalHexText := by
  refine fun s d => ⟨fun hin => ?_, fun i hi hin => ?_⟩
  · have htrack := take_storeField hin fun bs => .text (trackDecode (hexEncode bs))
    obtain ⟨hcut, hwhole⟩ := trackDecode_cases (t := hexEncode (memReadRange s.rxbuf s.cursor ((s.len + 1) / 2))) rfl
    exact ⟨_, _, rfl, rfl, fun hf => hcut hf ▸ htrack, fun hf => hwhole hf ▸ htrack⟩
  · simp only [List.mem_cons, List.not_mem_nil, or_false] at hi
    rcases hi with rfl | rfl | rfl
    all_goals exact ⟨_, rfl, take_storeField hin fun bs => .text (hexEncode bs)⟩

/-- Bytes that are no digits end the DECODE, the cursor behind them. -/
theorem take_valueDigits_fails {f : Bytes → Bytes} (hr : s.running = .decode) (hin : s.cursor + n ≤ s.rxlen)
    (h : isNum (f (memReadRange s.rxbuf s.cursor n)) = false) :
    (take n s.fidx s).andThen (fun bs u => valueDigits (f bs) u) =
      { s.errEnd .parseError .peValue (some s.fidx) with cursor := s.cursor + n } := by
  rw [take_ok hin, Res.andThen_val, valueDigits, decToNat_eq_none_of_isNum h]
  exact raise_advance_decode hr n _ _ _

/-- Settles O46: every row takes its bytes first; the two numeric ones then read digits. -/
theorem dvalRefuses : Obligations.DvalRefuses := by
  refine fun s d hr => ⟨fun x hx h => ?_, fun hin hnum => congrArg _ (take_valueDigits_fails (f := id) hr hin hnum),
    fun hin hnum => congrArg _ (take_valueDigits_fails (f := bcdDecode) hr hin hnum)⟩
  simp only [List.mem_cons, List.not_mem_nil, or_false] at hx
  rcases hx with rfl | rfl | rfl | rfl | rfl | rfl | rfl | rfl | rfl | rfl | rfl | rfl | rfl | rfl
  all_goals exact congrArg _ (take_short_decode hr h)

end Sys2Proof.Machine

end

section
/-! The two stages of a field of a DECODE by the codes of its descriptor (R105): one operation for each pair of codes, a
refusal for a pair that has no row. -/

namespace Sys2Proof.Machine

/-- The length stage of a discipline and a length encoding (R224 to R227). -/
def lengthOperation (disc : Disc) (lenc : Option Enc) (d : Word) (s : State) : State :=
  if disc = .fixed then lengthFixed d s
  else
    match lenc with
    | some .ascii => lengthAscii (prefixDigits disc) d s
    | some .bcd => lengthBcd (prefixDigits disc) d s
    | some .bin => lengthBin (prefixDigits disc) d s
    | none => s.raise .specError .seNoEntry (some s.fidx)

/-- The value stage of an encoding and a class (R234 to R238). -/
def valueOperation (denc : Option Enc) (cls : Option Class) (s : State) : State :=
  match denc, cls with
  | some .ascii, some .clsN => valueAsciiNumber s
  | some .ascii, some _ => valueAsciiText s
  | some .bcd, some .clsN => valueBcdNumber s
  | some .bcd, some .clsZ => valueTrack s
  | some .bin, some .clsN => valueBin s
  | some .bin, some .clsB => valueBin s
  | some .bin, some .clsZ => valueBin s
  | _, _ => s.raise .specError .seNoEntry (some s.fidx)

variable {s : State}

theorem fieldStage_dlen (hv : descV s.desc = true) : fieldStage .dlen s =
    .next (lengthOperation (discOfCode (descLdisc s.desc)) (encOfCode (descLenc s.desc)) s.desc s) := by
  simp only [fieldStage, decodeMicro, hv]
  rcases discOfCode (descLdisc s.desc) with _ | _ | _ | _ <;>
    rcases encOfCode (descLenc s.desc) with _ | _ | _ | _ <;> rfl

theorem fieldStage_dval (hv : descV s.desc = true) : fieldStage .dval s =
    .next (valueOperation (descEnc s.desc) (descClass s.desc) s) := by
  simp only [fieldStage, decodeMicro, hv, descEnc, descClass]
  cases encOfCode (descDenc s.desc) with
  | none => rfl
  | some e =>
    cases classOfCode (descCls s.desc) with
    | none => cases e <;> rfl
    | some c => cases e <;> cases c <;> rfl

end Sys2Proof.Machine

end

section
/-! DECODE against the reference parse (O54): where the bytes that are left of RXBUF parse, each part of the decode path
takes the bytes that the parse takes and goes on with those that it leaves. -/

namespace Sys2Proof.Machine

variable {s t : State} {bs v rest : Bytes} {n : Nat}

/-! ### The bytes that are left (R61, R66) -/

/-- The bytes of RXBUF from CURSOR up to RXLEN are `bs`. -/
def State.Left (s : State) (bs : Bytes) : Prop := s.Receives bs ∧ s.cursor + bs.length = s.rxlen

/-- The state that has consumed every byte received but the last ones, `rest`. -/
def State.leaving (s : State) (rest : Bytes) : State := { s with cursor := s.rxlen - rest.length }

theorem State.Left.leaving_eq (h : s.Left bs) : s.leaving bs = s := by
  have hcursor : s.rxlen - bs.length = s.cursor := by rw [← h.2, Nat.add_sub_cancel]
  rw [State.leaving, hcursor]

theorem splitBytes_eq_some : splitBytes n bs = some (v, rest) ↔ v.length = n ∧ v ++ rest = bs := by
  unfold splitBytes
  constructor
  · intro h
    split at h
    · next hn =>
      cases h
      exact ⟨List.length_take_of_le hn, List.take_append_drop n bs⟩
    · cases h
  · rintro ⟨rfl, rfl⟩
    simp

/-- `take` is `splitBytes` on the bytes that are left. -/
theorem State.Left.take (h : s.Left bs) (hs : splitBytes n bs = some (v, rest)) :
    (∀ k, take n k s = .val v (s.leaving rest)) ∧ (s.leaving rest).Left rest := by
  obtain ⟨rfl, rfl⟩ := splitBytes_eq_some.1 hs
  obtain ⟨hr, hend⟩ := h
  obtain ⟨hv, hrest⟩ := hr.of_append
  rw [List.length_append] at hend
  have hadv : s.advance v.length = s.leaving rest := by
    have hcursor : s.cursor + v.length = s.rxlen - rest.length := by omega
    rw [State.advance, State.leaving, hcursor]
  refine ⟨fun k => by rw [hv.take, hadv], hadv ▸ ⟨hrest, ?_⟩⟩
  simp only [State.advance]
  omega

/-! ### The MTI (R201, R207) -/

theorem parseMti_eq_some {d : Word} {strict : Bool} {m : Bytes} : parseMti d strict bs = some (m, rest) ↔
    descV d = true ∧ mtiCheck m strict = none ∧
      (descEnc d = some .bcd ∧ (∃ v, splitBytes 2 bs = some (v, rest) ∧ bcdDecode v = m) ∨
        descEnc d = some .ascii ∧ splitBytes 4 bs = some (m, rest)) := by
  unfold parseMti
  rcases descEnc d with _ | _ | _ | _ <;> simp [Option.filter_eq_some_iff, and_comm]

/-- The MTI phase reads the MTI that the parse reads. -/
theorem mtiDecode_of_parseMti {m : Bytes} (h : s.Left bs) (hp : parseMti (s.catWord 0) s.strict bs = some (m, rest)) :
    mtiDecode s = .val () ((s.leaving rest).storeMti m) ∧ (s.leaving rest).Left rest := by
  obtain ⟨hv, hcheck, henc⟩ := parseMti_eq_some.1 hp
  have hread : mtiRead s = .val m (s.leaving rest) ∧ (s.leaving rest).Left rest := by
    rw [mtiRead, catLookup_entry hv, Res.bind_val, fieldSpec_denc]
    rcases henc with ⟨henc, v, hs, rfl⟩ | ⟨henc, hs⟩
    · obtain ⟨htake, hleft⟩ := h.take hs
      simp only [henc, htake, Res.bind_val]
      exact ⟨trivial, hleft⟩
    · obtain ⟨htake, hleft⟩ := h.take hs
      simp only [henc, htake]
      exact ⟨trivial, hleft⟩
  obtain ⟨hread, hleft⟩ := hread
  have hcheck' : mtiCheck m (s.leaving rest).strict = none := hcheck
  simp only [mtiDecode, hread, Res.bind_val, hcheck']
  exact ⟨trivial, hleft⟩

/-! ### The bitmap (R181, R182) -/

theorem parseWord_eq_some {d : Word} {w : BitmapWord} : parseWord d bs = some (w, rest) ↔
    descV d = true ∧
      (descEnc d = some .bin ∧ (∃ v, splitBytes 8 bs = some (v, rest) ∧ wordOfBytes v = w) ∨
        descEnc d = some .ascii ∧
          ∃ t v, splitBytes 16 bs = some (t, rest) ∧ hexDecode t = some v ∧ wordOfBytes v = w) := by
  unfold parseWord
  rcases descEnc d with _ | _ | _ | _ <;> simp [Option.bind_eq_some_iff]

theorem readWord_of_parseWord {w : BitmapWord} (h : s.Left bs) (hp : parseWord (s.catWord 1) bs = some (w, rest)) :
    readWord s = .val w (s.leaving rest) ∧ (s.leaving rest).Left rest := by
  obtain ⟨hv, ⟨henc, v, hs, rfl⟩ | ⟨henc, t, v, hs, hhex, rfl⟩⟩ := parseWord_eq_some.1 hp
  all_goals
    obtain ⟨htake, hleft⟩ := h.take hs
    refine ⟨?_, hleft⟩
    rw [readWord, catLookup_entry hv, Res.bind_val, fieldSpec_denc]
  · simp only [henc, htake, Res.bind_val]
  · simp only [henc, htake, Res.bind_val, hhex]

/-- Bit 63 of a word that is stored as the primary one is PRES[1]. -/
theorem presBit_one_setPrimary (s : State) (w : BitmapWord) : presBit (s.setPrimary w).pres 1 = w.getLsbD 63 := by
  rw [← getLsbD_primaryWord _ (Nat.le_refl 1) (by decide), State.setPrimary_pres, primaryWord_presOfWords]

/-- The BITMAP phase reads the presence map that the parse reads. -/
theorem bitmapDecode_of_parseBitmap {p : BitVec 128} (h : s.Left bs)
    (hp : parseBitmap (s.catWord 1) bs = some (p, rest)) :
    bitmapDecode s = .val () { s.leaving rest with pres := p } ∧ (s.leaving rest).Left rest := by
  obtain ⟨⟨w1, mid⟩, hw1, hp⟩ := Option.bind_eq_some_iff.1 hp
  obtain ⟨hread1, hleft1⟩ := readWord_of_parseWord h hw1
  cases hbit : w1.getLsbD 63 with
  | false =>
    simp only [hbit] at hp
    cases hp
    refine ⟨?_, hleft1⟩
    simp only [bitmapDecode, hread1, Res.bind_val, presBit_one_setPrimary, hbit, setPrimary_setSecondary]
    rfl
  | true =>
    simp only [hbit] at hp
    obtain ⟨⟨w2, rest2⟩, hw2, he⟩ := Option.map_eq_some_iff.1 hp
    cases he
    obtain ⟨hread2, hleft2⟩ := readWord_of_parseWord (s := (s.leaving mid).setPrimary w1) hleft1 hw2
    refine ⟨?_, hleft2⟩
    simp only [bitmapDecode, hread1, Res.bind_val, presBit_one_setPrimary, hbit, if_true, hread2]
    simp [State.leaving, State.setPrimary, State.setSecondary]

/-! ### One field (R223 to R238) -/

/-- The length stage ends in the length that the parse reads. -/
theorem lengthOperation_of_parseLength {d : Word} (h : s.Left bs)
    (hp : parseLength s.params.binLenMode d bs = some (n, rest)) :
    lengthOperation (discOfCode (descLdisc d)) (encOfCode (descLenc d)) d s = lengthKnown d n (s.leaving rest) ∧
      n ≤ descEffmax d ∧ (s.leaving rest).Left rest := by
  unfold parseLength at hp
  split at hp
  · next hfixed =>
    cases hp
    rw [h.leaving_eq, hfixed]
    exact ⟨rfl, Nat.le_refl _, h⟩
  · next hvar =>
    simp only [Option.bind_eq_some_iff, Option.map_eq_some_iff, Option.filter_eq_some_iff, decide_eq_true_eq,
      Prod.mk.injEq, Prod.exists] at hp
    obtain ⟨v, mid, hs, k, ⟨hk, hmax⟩, rfl, rfl⟩ := hp
    obtain ⟨htake, hleft⟩ := h.take hs
    refine ⟨?_, hmax, hleft⟩
    rw [lengthOperation.eq_def, if_neg hvar]
    cases hlenc : encOfCode (descLenc d) with
    | none => simp [prefixValue, hlenc] at hk
    | some enc =>
      cases enc with
      | ascii =>
        simp only [prefixValue, hlenc] at hk
        simp only [prefixWidth, hlenc, Option.some.injEq, reduceCtorEq, if_false] at htake
        simp only [lengthAscii, htake, Res.andThen_val, lengthDigits, hk]
      | bcd =>
        simp only [prefixValue, hlenc] at hk
        simp only [prefixWidth, hlenc, if_true] at htake
        simp only [lengthBcd, htake, Res.andThen_val, lengthDigits, hk]
      | bin =>
        cases hmode : s.params.binLenMode with
        | refuse => simp [prefixValue, hlenc, hmode] at hk
        | beBytes =>
          simp only [prefixValue, hlenc, hmode, Option.some.injEq] at hk
          simp only [prefixWidth, hlenc, Option.some.injEq, reduceCtorEq, if_false] at htake
          simp only [lengthBin, hmode, htake, Res.andThen_val, hk]

/-- Text under ASCII, of each class but n. -/
theorem valueOperation_asciiText {c : Class} (hc : c ≠ .clsN) :
    valueOperation (some .ascii) (some c) s = valueAsciiText s := by
  cases c with
  | clsN => exact absurd rfl hc
  | _ => rfl

theorem valueDigits_of_map {t : Bytes} {x : Value} (h : (decToNat t).map .int = some x) :
    valueDigits t s = s.storeField x := by
  obtain ⟨k, hk, rfl⟩ := Option.map_eq_some_iff.1 h
  rw [valueDigits, hk]

/-- The value stage stores the value that the parse reads. -/
theorem valueOperation_of_valueOfBytes {d : Word} {x : Value} (h : s.Left bs)
    (hs : splitBytes (valueWidth d s.len) bs = some (v, rest)) (hx : valueOfBytes d v = some x) :
    valueOperation (descEnc d) (descClass d) s = (s.leaving rest).storeField x := by
  obtain ⟨htake, -⟩ := h.take hs
  unfold valueWidth at htake
  unfold valueOfBytes at hx
  split at hx
  case h_1 he hc =>
    simp only [he, Option.some.injEq, reduceCtorEq, if_false] at htake
    rw [he, hc]
    simp only [valueOperation, valueAsciiNumber, htake, Res.andThen_val, valueDigits_of_map hx]
  case h_2 hne he hc =>
    cases hx
    simp only [he, Option.some.injEq, reduceCtorEq, if_false] at htake
    rw [he, hc, valueOperation_asciiText hne, valueAsciiText, htake, Res.andThen_val]
  case h_3 he hc =>
    simp only [he, if_true] at htake
    rw [he, hc]
    simp only [valueOperation, valueBcdNumber, htake, Res.andThen_val, valueDigits_of_map hx]
  case h_4 he hc =>
    cases hx
    simp only [he, if_true] at htake
    rw [he, hc]
    simp only [valueOperation, valueTrack, htake, Res.andThen_val]
  case h_5 he hc | h_6 he hc | h_7 he hc =>
    cases hx
    simp only [he, Option.some.injEq, reduceCtorEq, if_false] at htake
    rw [he, hc]
    simp only [valueOperation, valueBin, htake, Res.andThen_val]
  case h_8 => cases hx

/-! ### Runs of the sequencer -/

/-- A framer in the middle of a DECODE. -/
structure State.Decoding (s : State) : Prop where
  running : s.running = .decode
  busy : s.busy = true
  reslen : s.reslen = 0

/-- The sequencer at work ends the command in `t`. -/
def State.RunsTo (s t : State) : Prop := ∀ k, seqRank s ≤ k → seqRun k s = .next t

theorem State.Decoding.runsTo_step {u : State} (hd : s.Decoding) (hstep : seqStep s = .next u) (hb : u.busy = true)
    (h : u.RunsTo t) : s.RunsTo t := by
  intro k hk
  rcases seqStep_spec hd.reslen hstep with hends | ⟨-, hrank⟩
  · rw [hends.busy] at hb
    cases hb
  · cases k with
    | zero => have := seqRank_pos s; omega
    | succ k =>
      simp only [seqRun, hstep, hb, if_true]
      exact h k (by omega)

theorem runsTo_last (hstep : seqStep s = .next t) (hb : t.busy = false) : s.RunsTo t := by
  intro k hk
  cases k with
  | zero => have := seqRank_pos s; omega
  | succ k => simp [seqRun, hstep, hb]

theorem storeField_busy (s : State) (x : Value) : (s.storeField x).busy = s.busy := (seqGoes_nextField _ _).busy

/-! ### The steps of a field -/

theorem seqStep_fieldStage {st : DStage} (hp : s.phase = .field) (hst : s.stage = some st) :
    seqStep s = fieldStage st s := by
  simp only [seqStep, hp, hst]

theorem seqStep_fetch (hr : s.running = .decode) (hp : s.phase = .field) (hst : s.stage = none)
    (hv : descV (s.catWord s.fidx) = true) :
    seqStep s = .next { s with desc := s.catWord s.fidx, stage := some .dlen } := by
  simp only [seqStep, hp, hst, fetchDescriptor_entry hv, hr]
  rfl

/-- From `s` the command ends wherever it ends once the field has got the value `x` and `rest` is left; the model's
latches may be anything by then (log 10). -/
def State.Stores (s : State) (x : Value) (rest : Bytes) : Prop :=
  (s.leaving rest).Left rest ∧
    ∃ d st k, ∀ t, ({ s.leaving rest with desc := d, stage := st, len := k }.storeField x).RunsTo t → s.RunsTo t

theorem stores_of_valueOfBytes {x : Value} (hd : s.Decoding) (hp : s.phase = .field) (hst : s.stage = some .dval)
    (hv : descV s.desc = true) (h : s.Left bs) (hs : splitBytes (valueWidth s.desc s.len) bs = some (v, rest))
    (hx : valueOfBytes s.desc v = some x) : s.Stores x rest := by
  have hstep : seqStep s = .next ((s.leaving rest).storeField x) := by
    rw [seqStep_fieldStage hp hst, fieldStage_dval hv, valueOperation_of_valueOfBytes h hs hx]
  exact ⟨(h.take hs).2, s.desc, s.stage, s.len, fun t =>
    hd.runsTo_step hstep ((storeField_busy _ _).trans hd.busy)⟩

/-- What the parse makes of the bytes behind a length of `n` (R229). -/
theorem stores_of_length {x : Value} {mid : Bytes} (hd : s.Decoding) (hp : s.phase = .field)
    (hst : s.stage = some .dlen) (hv : descV s.desc = true) (h : s.Left bs)
    (hlen : parseLength s.params.binLenMode s.desc bs = some (n, mid))
    (hzero : n = 0 → (x, rest) = (.absent, mid))
    (hvalue : n ≠ 0 → ∃ v, splitBytes (valueWidth s.desc n) mid = some (v, rest) ∧ valueOfBytes s.desc v = some x) :
    s.Stores x rest := by
  obtain ⟨hop, hmax, hmid⟩ := lengthOperation_of_parseLength h hlen
  have hstep : seqStep s = .next (lengthKnown s.desc n (s.leaving mid)) := by
    rw [seqStep_fieldStage hp hst, fieldStage_dlen hv, hop]
  by_cases h0 : n = 0
  · obtain ⟨rfl, rfl⟩ := Prod.mk.inj (hzero h0)
    rw [h0, lengthKnown_zero] at hstep
    exact ⟨hmid, s.desc, s.stage, s.len, fun t => hd.runsTo_step hstep ((storeField_busy _ _).trans hd.busy)⟩
  · obtain ⟨v, hs, hx⟩ := hvalue h0
    rw [lengthKnown_value hmax h0] at hstep
    obtain ⟨hleft, d, st, k, hrun⟩ := stores_of_valueOfBytes
      (s := { s.leaving mid with len := n, stage := some .dval }) ⟨hd.running, hd.busy, hd.reslen⟩ hp rfl hv hmid hs hx
    exact ⟨hleft, d, st, k, fun t ht => hd.runsTo_step hstep hd.busy (hrun t ht)⟩

/-- A field that parses is stored. -/
theorem stores_of_parseField {x : Value} (hd : s.Decoding) (hp : s.phase = .field) (hst : s.stage = none)
    (h : s.Left bs) (hparse : parseField s.params.binLenMode (s.catWord s.fidx) bs = some (x, rest)) :
    s.Stores x rest := by
  unfold parseField at hparse
  split at hparse
  case isFalse => cases hparse
  case isTrue hv =>
  obtain ⟨⟨n, mid⟩, hlen, hval⟩ := Option.bind_eq_some_iff.1 hparse
  obtain ⟨hleft, d, st, k, hrun⟩ := stores_of_length
    (s := { s with desc := s.catWord s.fidx, stage := some .dlen }) (x := x) (rest := rest)
    ⟨hd.running, hd.busy, hd.reslen⟩ hp rfl hv h hlen
    (fun h0 => by simpa [h0, eq_comm] using hval)
    (fun h0 => by simpa [h0, Option.bind_eq_some_iff] using hval)
  exact ⟨hleft, d, st, k, fun t ht => hd.runsTo_step (seqStep_fetch hd.running hp hst hv) hd.busy (hrun t ht)⟩

/-! ### The fields in their order (R31) -/

/-- The present fields after `f`, ascending. -/
def fieldsAfter (p : BitVec 128) (f : Nat) : List Nat := (List.range' (f + 1) (128 - f)).filter (presBit p)

theorem presentFields_eq (p : BitVec 128) : presentFields p = fieldsAfter p 1 := rfl

theorem nextPresent_eq_head? (p : BitVec 128) (f : Nat) : nextPresent p f = (fieldsAfter p f).head? :=
  (List.head?_filter ..).symm

/-- The fields after the first of the fields after `f`. -/
theorem fieldsAfter_of_cons {p : BitVec 128} {f g : Nat} {gs : List Nat} (h : fieldsAfter p f = g :: gs) :
    f < g ∧ fieldsAfter p g = gs := by
  obtain ⟨l1, l2, hrange, hskip, hg, hgs⟩ := List.filter_eq_cons_iff.1 h
  obtain ⟨k, -, -, hrest⟩ := List.range'_eq_append_iff.1 hrange
  obtain ⟨hgk, -, hl2⟩ := List.range'_eq_cons_iff.1 hrest.symm
  refine ⟨by omega, ?_⟩
  rw [← hgs, hl2, fieldsAfter, show 128 - f - k - 1 = 128 - g by omega]

theorem sparseErase_of_ne {α : Type} {m : List (Nat × α)} {g : Nat} (h : ∀ p ∈ m, p.1 ≠ g) : sparseErase g m = m := by
  induction m with
  | nil => rfl
  | cons p m ih =>
    rw [List.forall_mem_cons] at h
    rw [sparseErase, if_neg h.1, ih h.2]

theorem sparseInsert_of_lt {α : Type} {m : List (Nat × α)} {g : Nat} (x : α) (h : ∀ p ∈ m, p.1 < g) :
    sparseInsert g x m = m ++ [(g, x)] := by
  induction m with
  | nil => rfl
  | cons p m ih =>
    rw [List.forall_mem_cons] at h
    rw [sparseInsert, if_neg (Nat.lt_asymm h.1), ih h.2, List.cons_append]

/-- A slot written behind all the others; Absent leaves no entry. -/
theorem sparseSet_append {m vs : List (Nat × Value)} {g : Nat} {x : Value} (h : ∀ p ∈ m, p.1 < g) :
    sparseSet Value.absent m g x ++ vs = m ++ if x = .absent then vs else (g, x) :: vs := by
  rw [sparseSet, sparseErase_of_ne fun p hp => Nat.ne_of_lt (h p hp)]
  split
  · rfl
  · rw [sparseInsert_of_lt x h, List.append_assoc, List.singleton_append]

/-- The fields after `f` that parse are stored, and the command ends normally. -/
theorem nextField_runsTo (fs : List Nat) : ∀ {s : State} {f : Nat} {bs rest : Bytes} {vs : List (Nat × Value)},
    s.Decoding → s.Left bs → fieldsAfter s.pres f = fs → (∀ p ∈ s.vals, p.1 ≤ f) →
    parseFields s.params.binLenMode s.catWord fs bs = some (vs, rest) →
    (s.nextField f).RunsTo
      (donePhase { s.leaving rest with vals := s.vals ++ vs, fidx := fs.getLastD s.fidx }) := by
  induction fs with
  | nil =>
    intro s f bs rest vs hd h hfs _ hparse
    cases hparse
    have hnext : s.nextField f = { s with phase := .done, stage := none } := by
      rw [State.nextField, nextPresent_eq_head?, hfs]
      rfl
    rw [hnext, h.leaving_eq, List.append_nil]
    exact runsTo_last rfl rfl
  | cons g gs ih =>
    intro s f bs rest vs hd h hfs hvals hparse
    obtain ⟨hfg, hgs⟩ := fieldsAfter_of_cons hfs
    have hnext : s.nextField f = { s with phase := .field, fidx := g, stage := none } := by
      rw [State.nextField, nextPresent_eq_head?, hfs]
      rfl
    obtain ⟨⟨x, mid⟩, hx, hparse⟩ := Option.bind_eq_some_iff.1 hparse
    obtain ⟨⟨ws, last⟩, hws, he⟩ := Option.map_eq_some_iff.1 hparse
    cases he
    obtain ⟨hleft, d, st, k, hrun⟩ := stores_of_parseField (s := { s with phase := .field, fidx := g, stage := none })
      ⟨hd.running, hd.busy, hd.reslen⟩ rfl rfl h hx
    have hlt : ∀ p ∈ s.vals, p.1 < g := fun p hp => Nat.lt_of_le_of_lt (hvals p hp) hfg
    have hrest := ih (f := g)
      (s := { s.leaving mid with
        phase := .field, fidx := g, desc := d, stage := st, len := k, vals := sparseSet Value.absent s.vals g x })
      ⟨hd.running, hd.busy, hd.reslen⟩ hleft hgs
      (fun p hp => (mem_sparseSet hp).elim (fun e => by rw [e]) fun hp => Nat.le_of_lt (hlt p hp)) hws
    rw [hnext]
    refine hrun _ ?_
    rw [← sparseSet_append hlt, List.getLastD_cons]
    exact hrest

/-! ### The whole command (R220) -/

theorem left_received (h : s.cursor = 0) : s.Left s.received := by
  have hlen : s.received.length = s.rxlen := memReadRange_length ..
  refine ⟨⟨by omega, ?_⟩, by omega⟩
  rw [hlen, h]
  rfl

/-- The START phase of a DECODE. -/
theorem seqStep_decodeStart (s : State) :
    seqStep { s.begin .decode with phase := .start } = .next (decodeStart (s.begin .decode)) := rfl

theorem seqStep_mti (hr : s.running = .decode) (hp : s.phase = .mti) (h : mtiDecode s = .val () t) :
    seqStep s = .next { t with phase := .bitmap } := by
  simp [seqStep, hp, mtiPhase, hr, h]

theorem seqStep_bitmap (hr : s.running = .decode) (hp : s.phase = .bitmap) (h : bitmapDecode s = .val () t) :
    seqStep s = .next (t.nextField 1) := by
  simp [seqStep, hp, bitmapPhase, hr, h]

/-- A framer that is bound runs a DECODE from its START to where it runs to. -/
theorem exec_decode_of_runsTo (hb : s.bound = true) (h : (decodeStart (s.begin .decode)).RunsTo t) :
    exec .decode s = .next t := by
  have hrun : ({ s.begin .decode with phase := .start } : State).RunsTo t :=
    State.Decoding.runsTo_step ⟨rfl, rfl, rfl⟩ (seqStep_decodeStart s) rfl h
  exact (seqCommand_of_bound hb .decode).trans (hrun seqBound (Nat.le_refl 512))

/-- Settles O54: START, the MTI, the bitmap and the fields, each by what the parse says of it. -/
theorem decodeCompletes : Obligations.DecodeCompletes := by
  intro s m rest hb hparse
  obtain ⟨⟨mti, bs1⟩, hmti, hparse⟩ := Option.bind_eq_some_iff.1 hparse
  obtain ⟨⟨p, bs2⟩, hmap, hparse⟩ := Option.bind_eq_some_iff.1 hparse
  obtain ⟨⟨vs, bs3⟩, hfields, he⟩ := Option.map_eq_some_iff.1 hparse
  cases he
  obtain ⟨hstep1, hleft1⟩ := mtiDecode_of_parseMti (s := decodeStart (s.begin .decode)) (left_received rfl) hmti
  obtain ⟨hstep2, hleft2⟩ := bitmapDecode_of_parseBitmap
    (s := { ((decodeStart (s.begin .decode)).leaving bs1).storeMti mti with phase := .bitmap }) hleft1 hmap
  have hrun := nextField_runsTo (presentFields p) (f := 1) (vs := vs) (rest := bs3)
    (s := { s.begin .decode with
      mti := mtiOfBytes mti, mtiValid := true, pres := p, vals := [], cursor := s.rxlen - bs2.length
      phase := .bitmap })
    ⟨rfl, rfl, rfl⟩ hleft2 rfl nofun hfields
  have hstart : State.Decoding (decodeStart (s.begin .decode)) := ⟨rfl, rfl, rfl⟩
  refine exec_decode_of_runsTo hb (hstart.runsTo_step (seqStep_mti rfl rfl hstep1) rfl ?_)
  exact State.Decoding.runsTo_step ⟨rfl, rfl, rfl⟩ (seqStep_bitmap rfl rfl hstep2) ((seqGoes_nextField _ _).busy) hrun

end Sys2Proof.Machine

end

section
/-! Two DECODEs of the same input (O58): what the path reads of a state is its input, the message so far and, in a
field, the latches that the step before has written; two states that agree on these agree on them after a step. -/

namespace Sys2Proof.Machine

variable {s s' : State}

/-- What a DECODE reads (R61, R221) and the part of the state that it writes: the input, the message and the results.
The characters of the MTI count only while MTI_VALID is 1 (log 5). -/
structure DecodeView where
  catrom : CatRom
  catsel : BitVec 2
  strict : Bool
  params : Config.Params
  rxlen : Nat
  received : Bytes
  mtiValid : Bool
  mti : Option Mti
  pres : BitVec 128
  vals : List (Nat × Value)
  cursor : Nat
  errinfo : Word
  reslen : Nat
  resval : Word

/-- What a DECODE sees of a state. -/
def State.view (s : State) : DecodeView where
  catrom := s.catrom
  catsel := s.catsel
  strict := s.strict
  params := s.params
  rxlen := s.rxlen
  received := s.received
  mtiValid := s.mtiValid
  mti := if s.mtiValid then some s.mti else none
  pres := s.pres
  vals := s.vals
  cursor := s.cursor
  errinfo := s.errinfo
  reslen := s.reslen
  resval := s.resval

/-- Two framers in the middle of a DECODE that will go the same way: the same view, and the same latches as far as the
stage of the field reads them (log 10). -/
structure SameCourse (s s' : State) : Prop where
  view : s.view = s'.view
  running : s.running = .decode ∧ s'.running = .decode
  busy : s.busy = true ∧ s'.busy = true
  reslen : s.reslen = 0
  phase : s.phase = s'.phase
  field : s.phase = .field → s.fidx = s'.fidx ∧ s.stage = s'.stage
  stages : s.phase = .field → s.stage = none ∨ s.stage = some .dlen ∨ s.stage = some .dval
  desc : s.phase = .field → s.stage ≠ none → s.desc = s'.desc
  len : s.phase = .field → s.stage = some .dval → s.len = s'.len

/-- Two DECODEs that have ended alike. -/
structure SameEnd (t t' : State) : Prop where
  view : t.view = t'.view
  busy : t.busy = false ∧ t'.busy = false
  kind : t.kind = t'.kind
  cause : t.cause = t'.cause
  ekey : t.ekey = t'.ekey

/-- Two DECODEs that have ended alike, or go on alike. -/
def Alike (t t' : State) : Prop := SameEnd t t' ∨ SameCourse t t'

theorem SameCourse.decoding (h : SameCourse s s') : s.Decoding ∧ s'.Decoding :=
  ⟨⟨h.running.1, h.busy.1, h.reslen⟩, h.running.2, h.busy.2, (congrArg DecodeView.reslen h.view).symm.trans h.reslen⟩

/-! ### What the view determines -/

theorem catWord_of_view (h : s.view = s'.view) (k : Nat) : s.catWord k = s'.catWord k :=
  congrArg (fun v : DecodeView => catRomWord v.catrom v.catsel k) h

/-- Bytes below RXLEN are bytes received. -/
theorem memReadRange_eq_received {c n : Nat} (h : c + n ≤ s.rxlen) :
    memReadRange s.rxbuf c n = (s.received.drop c).take n := by
  obtain ⟨r, hr⟩ := Nat.exists_eq_add_of_le h
  rw [State.received, hr, Nat.add_assoc, memReadRange_add, memReadRange_add]
  simp

/-- A `take` reads bytes received, and whether it goes through is a matter of the lengths. -/
theorem take_of_view (h : s.view = s'.view) (n k : Nat) :
    (∃ v, take n k s = .val v (s.advance n) ∧ take n k s' = .val v (s'.advance n)) ∨
      take n k s = .fail s .parseError .peUnderrun (some k) ∧
        take n k s' = .fail s' .parseError .peUnderrun (some k) := by
  have hcursor : s.cursor = s'.cursor := congrArg DecodeView.cursor h
  have hrxlen : s.rxlen = s'.rxlen := congrArg DecodeView.rxlen h
  have hreceived : s.received = s'.received := congrArg DecodeView.received h
  by_cases hin : s.cursor + n ≤ s.rxlen
  · have hin' : s'.cursor + n ≤ s'.rxlen := hcursor ▸ hrxlen ▸ hin
    refine .inl ⟨_, take_ok hin, ?_⟩
    rw [take_ok hin', memReadRange_eq_received hin, memReadRange_eq_received hin', hcursor, hreceived]
    rfl
  · have hshort : s.rxlen < s.cursor + n := Nat.lt_of_not_le hin
    exact .inr ⟨take_short hshort, take_short (hcursor ▸ hrxlen ▸ hshort)⟩

/-! ### Updates that keep two framers on one course -/

theorem SameCourse.advance (h : SameCourse s s') (n : Nat) : SameCourse (s.advance n) (s'.advance n) :=
  { h with view := congrArg (fun v => { v with cursor := v.cursor + n }) h.view }

theorem SameCourse.withPres (h : SameCourse s s') (p : BitVec 128) :
    SameCourse { s with pres := p } { s' with pres := p } :=
  { h with view := congrArg (fun v => { v with pres := p }) h.view }

theorem SameCourse.withErrinfo (h : SameCourse s s') (n : Word) :
    SameCourse { s with errinfo := n } { s' with errinfo := n } :=
  { h with view := congrArg (fun v => { v with errinfo := n }) h.view }

theorem SameCourse.storeMti (h : SameCourse s s') (t : Bytes) : SameCourse (s.storeMti t) (s'.storeMti t) :=
  { h with view := congrArg (fun v => { v with mtiValid := true, mti := some (mtiOfBytes t) }) h.view }

theorem SameCourse.setVal (h : SameCourse s s') (f : Nat) (v : Value) : SameCourse (s.setVal f v) (s'.setVal f v) :=
  { h with view := congrArg (fun w => { w with vals := sparseSet Value.absent w.vals f v }) h.view }

/-- START clears the message, the cursor and ERRINFO (R221). -/
theorem SameCourse.decodeStart (h : SameCourse s s') : SameCourse (decodeStart s) (decodeStart s') :=
  { h with
    view := congrArg (fun v => { v with
      cursor := 0, mtiValid := false, mti := none, pres := 0, vals := [], errinfo := 0 }) h.view
    phase := rfl, field := nofun, stages := nofun, desc := nofun, len := nofun }

/-- Outside the FIELD phase the latches do not count. -/
theorem SameCourse.withPhase (h : SameCourse s s') {p : Phase} (hp : p ≠ .field) :
    SameCourse { s with phase := p } { s' with phase := p } :=
  { h with
    phase := rfl, field := fun e => absurd e hp, stages := fun e => absurd e hp, desc := fun e => absurd e hp
    len := fun e => absurd e hp }

/-- The next field is the same, for it is read off PRES; its descriptor is still to be read. -/
theorem SameCourse.nextField (h : SameCourse s s') (f : Nat) : SameCourse (s.nextField f) (s'.nextField f) := by
  have hpres : s.pres = s'.pres := congrArg DecodeView.pres h.view
  cases hnext : nextPresent s.pres f with
  | none =>
    have hnext' : nextPresent s'.pres f = none := hpres ▸ hnext
    simp only [State.nextField, hnext, hnext']
    exact { h with phase := rfl, field := nofun, stages := nofun, desc := nofun, len := nofun }
  | some g =>
    have hnext' : nextPresent s'.pres f = some g := hpres ▸ hnext
    simp only [State.nextField, hnext, hnext']
    exact { h with
      phase := rfl, field := fun _ => ⟨rfl, rfl⟩, stages := fun _ => .inl rfl, desc := fun _ e => absurd rfl e
      len := nofun }

theorem SameCourse.raise (h : SameCourse s s') (k : Kind) (c : Cause) (key : Option Nat) :
    SameEnd (s.raise k c key) (s'.raise k c key) :=
  ⟨congrArg (fun v => { v with reslen := 0, resval := 0 }) h.view, ⟨rfl, rfl⟩, rfl, rfl, rfl⟩

/-! ### Computations that may raise -/

/-- Both computations go on with one value on one course, or both have ended alike. -/
def Res.Alike {α : Type} : Res α → Res α → Prop
  | .val a t, .val a' t' => a = a' ∧ SameCourse t t'
  | .stop t, .stop t' => SameEnd t t'
  | _, _ => False

theorem Res.Alike.bind {α β : Type} {r r' : Res α} {f : α → State → Res β} (h : r.Alike r')
    (hf : ∀ a t t', SameCourse t t' → (f a t).Alike (f a t')) : (r.bind f).Alike (r'.bind f) := by
  cases r <;> cases r'
  case val.val a t a' t' =>
    obtain ⟨rfl, ht⟩ := h
    exact hf _ _ _ ht
  case stop.stop => exact h
  all_goals exact h.elim

theorem Res.Alike.andThen {α : Type} {r r' : Res α} {f f' : α → State → State} (h : r.Alike r')
    (hf : ∀ a t t', SameCourse t t' → Machine.Alike (f a t) (f' a t')) :
    Machine.Alike (r.andThen f) (r'.andThen f') := by
  cases r <;> cases r'
  case val.val a t a' t' =>
    obtain ⟨rfl, ht⟩ := h
    exact hf _ _ _ ht
  case stop.stop => exact .inl h
  all_goals exact h.elim

theorem SameCourse.fail {α : Type} (h : SameCourse s s') (k : Kind) (c : Cause) (key : Option Nat) :
    (Res.fail (α := α) s k c key).Alike (.fail s' k c key) := h.raise k c key

theorem SameCourse.take (h : SameCourse s s') (n k : Nat) : (take n k s).Alike (take n k s') := by
  rcases take_of_view h.view n k with ⟨v, htake, htake'⟩ | ⟨htake, htake'⟩
  · rw [htake, htake']
    exact ⟨rfl, h.advance n⟩
  · rw [htake, htake']
    exact h.fail _ _ _

theorem SameCourse.catLookup (h : SameCourse s s') (k : Nat) : (catLookup k s).Alike (catLookup k s') := by
  have hdesc : (catRomEntry s.catrom s.catsel k).desc = (catRomEntry s'.catrom s'.catsel k).desc :=
    congrArg (fun v => (catRomEntry v.catrom v.catsel k).desc) h.view
  unfold Machine.catLookup
  rw [catWord_of_view h.view k, hdesc]
  split
  · exact ⟨rfl, h⟩
  · exact h.fail _ _ _

/-! ### The header phases (R201, R207, R181, R182) -/

theorem SameCourse.mtiRead (h : SameCourse s s') : (mtiRead s).Alike (mtiRead s') := by
  refine (h.catLookup 0).bind fun e t t' ht => ?_
  rcases e.denc with _ | _ | _ | _
  · exact ht.fail _ _ _
  · exact ht.take 4 0
  · exact (ht.take 2 0).bind fun _ _ _ hu => ⟨rfl, hu⟩
  · exact ht.fail _ _ _

theorem SameCourse.mtiDecode (h : SameCourse s s') : (mtiDecode s).Alike (mtiDecode s') := by
  refine h.mtiRead.bind fun m t t' ht => ?_
  have hstrict : t.strict = t'.strict := congrArg DecodeView.strict ht.view
  cases hc : mtiCheck m t.strict with
  | none =>
    have hc' : mtiCheck m t'.strict = none := hstrict ▸ hc
    simp only [hc']
    exact ⟨rfl, ht.storeMti m⟩
  | some c =>
    have hc' : mtiCheck m t'.strict = some c := hstrict ▸ hc
    simp only [hc']
    exact (ht.withErrinfo _).fail _ _ _

theorem SameCourse.readWord (h : SameCourse s s') : (readWord s).Alike (readWord s') := by
  refine (h.catLookup 1).bind fun e t t' ht => ?_
  rcases e.denc with _ | _ | _ | _
  · exact ht.fail _ _ _
  · refine (ht.take 16 1).bind fun v u u' hu => ?_
    cases hexDecode v with
    | none => exact hu.fail _ _ _
    | some bs => exact ⟨rfl, hu⟩
  · exact ht.fail _ _ _
  · exact (ht.take 8 1).bind fun _ _ _ hu => ⟨rfl, hu⟩

theorem SameCourse.setPrimary (h : SameCourse s s') (w : BitmapWord) :
    SameCourse (s.setPrimary w) (s'.setPrimary w) := by
  have hpres : s.pres = s'.pres := congrArg DecodeView.pres h.view
  unfold State.setPrimary
  rw [hpres]
  exact h.withPres _

theorem SameCourse.setSecondary (h : SameCourse s s') (w : BitmapWord) :
    SameCourse (s.setSecondary w) (s'.setSecondary w) := by
  have hpres : s.pres = s'.pres := congrArg DecodeView.pres h.view
  unfold State.setSecondary
  rw [hpres]
  exact h.withPres _

theorem SameCourse.bitmapDecode (h : SameCourse s s') : (bitmapDecode s).Alike (bitmapDecode s') := by
  refine h.readWord.bind fun w t t' ht => ?_
  rw [presBit_one_setPrimary, presBit_one_setPrimary]
  split
  · exact (ht.setPrimary w).readWord.bind fun _ _ _ hu => ⟨rfl, hu.setSecondary _⟩
  · exact ⟨rfl, (ht.setPrimary w).setSecondary 0⟩

/-! ### The stages of a field (R223 to R238) -/

/-- A latched word that is no entry has no row at any stage (R239). -/
theorem fieldStage_noEntry {st : DStage} (hv : descV s.desc = false) :
    fieldStage st s = .next (s.raise .specError .seNoEntry (some s.fidx)) := by
  simp [Machine.fieldStage, decodeMicro, hv]

section Field

variable (h : SameCourse s s') (hp : s.phase = .field)
include h hp

theorem SameCourse.raiseKey (k : Kind) (c : Cause) :
    Alike (s.raise k c (some s.fidx)) (s'.raise k c (some s'.fidx)) := by
  rw [(h.field hp).1]
  exact .inl (h.raise _ _ _)

theorem SameCourse.storeField (v : Value) : Alike (s.storeField v) (s'.storeField v) := by
  unfold State.storeField
  rw [(h.field hp).1]
  exact .inr ((h.setVal _ v).nextField _)

theorem SameCourse.lengthKnown (hst : s.stage = some .dlen) (d : Word) (n : Nat) :
    Alike (lengthKnown d n s) (lengthKnown d n s') := by
  unfold Machine.lengthKnown
  split
  · exact h.raiseKey hp _ _
  split
  · exact h.storeField hp _
  · exact .inr { h with
      field := fun _ => ⟨(h.field hp).1, rfl⟩, stages := fun _ => .inr (.inr rfl)
      desc := fun _ _ => h.desc hp (by simp [hst]), len := fun _ _ => rfl }

theorem SameCourse.lengthDigits (hst : s.stage = some .dlen) (d : Word) (t : Bytes) :
    Alike (lengthDigits d t s) (lengthDigits d t s') := by
  unfold Machine.lengthDigits
  cases decToNat t with
  | none => exact h.raiseKey hp _ _
  | some n => exact h.lengthKnown hp hst d n

theorem SameCourse.valueDigits (t : Bytes) : Alike (valueDigits t s) (valueDigits t s') := by
  unfold Machine.valueDigits
  cases decToNat t with
  | none => exact h.raiseKey hp _ _
  | some n => exact h.storeField hp _

/-- The bytes of the field, and what a stage does with them. -/
theorem SameCourse.takeThen (n : Nat) {g : Bytes → State → State}
    (hg : ∀ v, Alike (g v (s.advance n)) (g v (s'.advance n))) :
    Alike ((Machine.take n s.fidx s).andThen g) ((Machine.take n s'.fidx s').andThen g) := by
  rw [(h.field hp).1]
  rcases take_of_view h.view n s'.fidx with ⟨v, htake, htake'⟩ | ⟨htake, htake'⟩
  · rw [htake, htake']
    exact hg v
  · rw [htake, htake']
    exact .inl (h.raise _ _ _)

theorem SameCourse.lengthBin (hst : s.stage = some .dlen) (w : Nat) (d : Word) :
    Alike (lengthBin w d s) (lengthBin w d s') := by
  have hparams : s.params = s'.params := congrArg DecodeView.params h.view
  cases hmode : s.params.binLenMode with
  | refuse =>
    have hmode' : s'.params.binLenMode = .refuse := hparams ▸ hmode
    simp only [Machine.lengthBin, hmode, hmode']
    exact h.raiseKey hp _ _
  | beBytes =>
    have hmode' : s'.params.binLenMode = .beBytes := hparams ▸ hmode
    simp only [Machine.lengthBin, hmode, hmode']
    exact h.takeThen hp w fun _ => (h.advance w).lengthKnown hp hst d _

theorem SameCourse.lengthOperation (hst : s.stage = some .dlen) (disc : Disc) (lenc : Option Enc) (d : Word) :
    Alike (lengthOperation disc lenc d s) (lengthOperation disc lenc d s') := by
  unfold Machine.lengthOperation
  split
  · exact h.lengthKnown hp hst d _
  rcases lenc with _ | _ | _ | _
  · exact h.raiseKey hp _ _
  · exact h.takeThen hp _ fun _ => (h.advance _).lengthDigits hp hst d _
  · exact h.takeThen hp _ fun _ => (h.advance _).lengthDigits hp hst d _
  · exact h.lengthBin hp hst _ d

theorem SameCourse.valueOperation (hst : s.stage = some .dval) (denc : Option Enc) (cls : Option Class) :
    Alike (valueOperation denc cls s) (valueOperation denc cls s') := by
  have hlen : s.len = s'.len := h.len hp hst
  unfold Machine.valueOperation valueAsciiNumber valueAsciiText valueBcdNumber valueTrack valueBin
  rw [hlen]
  have hdigits (n : Nat) (f : Bytes → Bytes) := h.takeThen hp n fun v => (h.advance n).valueDigits hp (f v)
  have hstore (n : Nat) (f : Bytes → Value) := h.takeThen hp n (g := fun bs u => u.storeField (f bs))
    fun v => (h.advance n).storeField hp (f v)
  split
  · exact hdigits _ id
  · exact hstore _ .text
  · exact hdigits _ bcdDecode
  · exact hstore _ fun bs => .text (trackDecode (hexEncode bs))
  · exact hstore _ fun bs => .text (hexEncode bs)
  · exact hstore _ fun bs => .text (hexEncode bs)
  · exact hstore _ fun bs => .text (hexEncode bs)
  · exact h.raiseKey hp _ _

/-- The lookup of the descriptor, after which the field is at its length stage. -/
theorem SameCourse.fetchDescriptor : Alike (fetchDescriptor s) (fetchDescriptor s') := by
  obtain ⟨hfidx, -⟩ := h.field hp
  obtain ⟨hr, hr'⟩ := h.running
  have hword : s.catWord s.fidx = s'.catWord s'.fidx := hfidx ▸ catWord_of_view h.view s.fidx
  unfold Machine.fetchDescriptor
  rw [hword, hr, hr']
  split
  · exact .inr { h with
      running := ⟨rfl, rfl⟩, field := fun _ => ⟨hfidx, rfl⟩, stages := fun _ => .inr (.inl rfl)
      desc := fun _ _ => rfl, len := nofun }
  · exact h.raiseKey hp _ _

/-- A stage of the decode path. -/
theorem SameCourse.fieldStage {st : DStage} (hst : s.stage = some st) :
    ∃ t t', fieldStage st s = .next t ∧ fieldStage st s' = .next t' ∧ Alike t t' := by
  have hdesc : s.desc = s'.desc := h.desc hp (by simp [hst])
  cases hv : descV s.desc with
  | false => exact ⟨_, _, fieldStage_noEntry hv, fieldStage_noEntry (hdesc ▸ hv), h.raiseKey hp _ _⟩
  | true =>
    rcases h.stages hp with hst' | hst' | hst' <;> rw [hst] at hst' <;> cases hst'
    · refine ⟨_, _, fieldStage_dlen hv, fieldStage_dlen (hdesc ▸ hv), ?_⟩
      rw [← hdesc]
      exact h.lengthOperation hp hst _ _ _
    · refine ⟨_, _, fieldStage_dval hv, fieldStage_dval (hdesc ▸ hv), ?_⟩
      rw [← hdesc]
      exact h.valueOperation hp hst _ _

end Field

/-! ### Steps and runs -/

theorem SameCourse.donePhase (h : SameCourse s s') : SameEnd (donePhase s) (donePhase s') := by
  obtain ⟨hr, hr'⟩ := h.running
  unfold Machine.donePhase
  rw [hr, hr']
  exact ⟨congrArg (fun v => { v with reslen := 0, resval := BitVec.ofNat 32 v.cursor }) h.view, ⟨rfl, rfl⟩, rfl, rfl,
    rfl⟩

/-- Two framers on one course make the same step. -/
theorem SameCourse.seqStep (h : SameCourse s s') :
    ∃ t t', seqStep s = .next t ∧ seqStep s' = .next t' ∧ Alike t t' := by
  obtain ⟨hr, hr'⟩ := h.running
  have hphase := h.phase
  cases hp : s.phase
  all_goals
    have hp' := hphase.symm.trans hp
    simp only [Machine.seqStep, hp, hp']
  case idle => exact ⟨_, _, rfl, rfl, .inl ⟨h.view, ⟨rfl, rfl⟩, rfl, rfl, rfl⟩⟩
  case start =>
    rw [hr, hr']
    exact ⟨_, _, rfl, rfl, .inr (h.decodeStart)⟩
  case mti =>
    refine ⟨_, _, rfl, rfl, ?_⟩
    simp only [mtiPhase, hr, hr']
    exact h.mtiDecode.andThen fun _ _ _ ht => .inr (ht.withPhase nofun)
  case bitmap =>
    refine ⟨_, _, rfl, rfl, ?_⟩
    simp only [bitmapPhase, hr, hr']
    exact h.bitmapDecode.andThen fun _ _ _ ht => .inr (ht.nextField 1)
  case field =>
    obtain ⟨-, hstage⟩ := h.field hp
    cases hst : s.stage with
    | none =>
      simp only [← hstage, hst]
      exact ⟨_, _, rfl, rfl, h.fetchDescriptor hp⟩
    | some st =>
      simp only [← hstage, hst]
      exact h.fieldStage hp hst
  case done => exact ⟨_, _, rfl, rfl, .inl h.donePhase⟩

/-- Two framers on one course end alike. -/
theorem SameCourse.runsTo (n : Nat) : ∀ {s s' : State}, SameCourse s s' → seqRank s ≤ n →
    ∃ t t', s.RunsTo t ∧ s'.RunsTo t' ∧ SameEnd t t' := by
  induction n with
  | zero =>
    intro s s' _ hn
    have := seqRank_pos s
    omega
  | succ n ih =>
    intro s s' h hn
    obtain ⟨hd, hd'⟩ := h.decoding
    obtain ⟨u, u', hstep, hstep', hend | hgo⟩ := h.seqStep
    · exact ⟨u, u', runsTo_last hstep hend.busy.1, runsTo_last hstep' hend.busy.2, hend⟩
    · rcases seqStep_spec hd.reslen hstep with hends | ⟨-, hrank⟩
      · exact absurd (hends.busy.symm.trans hgo.busy.1) nofun
      · obtain ⟨t, t', hrun, hrun', hend⟩ := ih hgo (by omega)
        exact ⟨t, t', hd.runsTo_step hstep hgo.busy.1 hrun, hd'.runsTo_step hstep' hgo.busy.2 hrun', hend⟩

/-- START leaves of a state only the input of the DECODE (R221). -/
theorem sameCourse_decodeStart (hsel : s.catsel = s'.catsel) (hrom : s.catrom = s'.catrom)
    (hstrict : s.strict = s'.strict) (hparams : s.params = s'.params) (hlen : s.rxlen = s'.rxlen)
    (hbytes : s.received = s'.received) :
    SameCourse (decodeStart (s.begin .decode)) (decodeStart (s'.begin .decode)) where
  view := DecodeView.mk.injEq .. ▸ ⟨hrom, hsel, hstrict, hparams, hlen, hbytes, rfl, rfl, rfl, rfl, rfl, rfl, rfl, rfl⟩
  running := ⟨rfl, rfl⟩
  busy := ⟨rfl, rfl⟩
  reslen := rfl
  phase := rfl
  field := nofun
  stages := nofun
  desc := nofun
  len := nofun

/-- Settles O58: after START the two framers are on one course, and so they end alike. -/
theorem decodeDependsOnlyOnInput : Obligations.DecodeDependsOnlyOnInput := by
  intro s s' t t' hb hb' hsel hrom hstrict hparams hlen hbytes ht ht'
  obtain ⟨u, u', hrun, hrun', hend⟩ :=
    (sameCourse_decodeStart hsel hrom hstrict hparams hlen hbytes).runsTo _ (Nat.le_refl _)
  rw [exec_decode_of_runsTo hb hrun] at ht
  rw [exec_decode_of_runsTo hb' hrun'] at ht'
  cases ht
  cases ht'
  have hview {α : Type} (f : DecodeView → α) := congrArg f hend.view
  have hvalid : t.mtiValid = t'.mtiValid := hview DecodeView.mtiValid
  refine ⟨hend.kind, hend.cause, hend.ekey, hvalid, fun hv => ?_, hview DecodeView.pres, hview DecodeView.vals,
    hview DecodeView.cursor, hview DecodeView.errinfo, hview DecodeView.reslen, hview DecodeView.resval⟩
  have hmti := hview DecodeView.mti
  simpa [State.view, ← hvalid, hv] using hmti

end Sys2Proof.Machine

end

section
/-! Track 2 under BCD (O53): its text is of characters that pack, so that the bytes give the text back, and the decode
translation undoes the build translation character by character. -/

namespace Sys2Proof.Machine

variable {t : Bytes}

/-- The separator of track 2 as it is sent (R272). -/
def trackSeparators (t : Bytes) : Bytes := t.map fun c => if c = 0x3D#8 then 0x44 else c

/-- The build translation: the separators, then the pad behind an odd count. -/
theorem trackEncode_eq (t : Bytes) :
    trackEncode t = trackSeparators t ++ if t.length % 2 = 1 then [0x46] else [] := by
  have hlen : (trackSeparators t).length = t.length := List.length_map ..
  change (if (trackSeparators t).length % 2 = 1 then _ else _) = _
  rw [hlen]
  split
  · rfl
  · exact (List.append_nil _).symm

theorem trackEncode_length (t : Bytes) : (trackEncode t).length % 2 = 0 := by
  rw [trackEncode_eq, List.length_append, trackSeparators, List.length_map]
  split
  · rw [List.length_singleton]
    omega
  · rw [List.length_nil]
    omega

/-! ### Characters that pack -/

/-- A character of track 2 as it is sent: a digit, the separator or the pad. -/
def isTrackNibble (c : Byte) : Bool := isDigit c || c == 0x44 || c == 0x46

theorem nibval_trackNibble : ∀ c : Byte, isTrackNibble c = true → (nibval c).isSome ∧ upperHex [c] = [c] := by
  decide +kernel

theorem upperHex_eq_self : ∀ {t : Bytes}, (∀ c ∈ t, upperHex [c] = [c]) → upperHex t = t
  | [], _ => rfl
  | c :: t, h => by
    rw [List.forall_mem_cons] at h
    rw [upperHex_cons, h.1, upperHex_eq_self h.2, List.singleton_append]

/-- A text of an even number of such characters packs, and its bytes spell it. -/
theorem bcdEncode_trackNibbles (heven : t.length % 2 = 0) (h : ∀ c ∈ t, isTrackNibble c = true) :
    ∃ bs, bcdEncode t = some bs ∧ hexEncode bs = t := by
  have hpacks : (hexDecode t).isSome :=
    (hexDecode_isSome_iff t).2 ⟨heven, fun c hc => (nibval_trackNibble c (h c hc)).1⟩
  obtain ⟨bs, hbs⟩ := Option.isSome_iff_exists.1 hpacks
  have hsame : evenText t = t := if_neg (by omega)
  refine ⟨bs, by rw [bcdEncode_eq_hexDecode, hsame, hbs], ?_⟩
  rw [hexEncode_of_hexDecode hbs, upperHex_eq_self fun c hc => (nibval_trackNibble c (h c hc)).2]

/-! ### Digits and separators -/

section Characters

variable (h : ∀ c ∈ t, isDigit c = true ∨ c = 0x3D)
include h

theorem isTrackNibble_trackEncode : ∀ c ∈ trackEncode t, isTrackNibble c = true := by
  rw [trackEncode_eq, List.forall_mem_append, trackSeparators, List.forall_mem_map]
  refine ⟨fun c hc => ?_, ?_⟩
  · split
    · decide
    · next hne => simp [isTrackNibble, (h c hc).resolve_right hne]
  · split <;> decide

/-- No character of the text is a `D`, so that every one of the translated text is a separator. -/
theorem trackSeparators_back : (trackSeparators t).map (fun c => if c = 0x44#8 then 0x3D else c) = t := by
  rw [trackSeparators, List.map_map]
  refine (List.map_congr_left fun c hc => ?_).trans (List.map_id t)
  have hne : c ≠ 0x44#8 := by
    rintro rfl
    exact absurd (h _ hc) (by decide)
  by_cases hsep : c = 0x3D#8 <;> simp [hsep, hne]

theorem trackDecode_trackEncode : trackDecode (trackEncode t) = t := by
  have hback := trackSeparators_back h
  obtain ⟨hcut, hwhole⟩ := trackDecode_cases (t := trackEncode t) rfl
  rw [trackEncode_eq, List.map_append, hback] at hcut hwhole
  rw [trackEncode_eq]
  by_cases hodd : t.length % 2 = 1
  · rw [if_pos hodd] at hcut ⊢
    exact (hcut List.getLast?_concat).trans List.dropLast_concat
  · rw [if_neg hodd, List.map_nil, List.append_nil] at hwhole
    rw [if_neg hodd]
    exact hwhole fun hl => absurd (h _ (List.mem_of_getLast? hl)) (by decide)

end Characters

/-- Settles O53: the translated text packs, its bytes spell it, and the translation is undone. -/
theorem trackTwoRoundTrip : Obligations.TrackTwoRoundTrip := by
  intro t h
  obtain ⟨bs, hbs, htext⟩ := bcdEncode_trackNibbles (trackEncode_length t) (isTrackNibble_trackEncode h)
  exact ⟨bs, hbs, by rw [htext, trackDecode_trackEncode h]⟩

end Sys2Proof.Machine

end

section
/-! The field micro-operations of the build path (O47 to O52): the format stage measures a text and hands it on, the
prefix stage emits a length, the emit stage the value; each may end the BUILD. Each row of the opcode table is one of
the shared operations. -/

namespace Sys2Proof.Machine

variable {s : State} {d : Word} {n w : Nat} {t v : Bytes}

/-! ### The measure of a text (R267) -/

theorem measureText_eq_some :
    measureText d t = some n ↔ if descEnc d = some .bin then t.length = 2 * n else t.length = n := by
  unfold measureText
  split
  · split
    · exact iff_of_false nofun (by omega)
    · rw [Option.some.injEq]
      omega
  · rw [Option.some.injEq]

theorem measureText_eq_none : measureText d t = none ↔ descEnc d = some .bin ∧ t.length % 2 = 1 := by
  unfold measureText
  split
  · next hbin => simp [hbin]
  · next hbin => simp [hbin]

/-! ### The format stage (R264 to R267, R272, R273) -/

theorem fixedReady_exact (h : measureText d t = some (descEffmax d)) :
    fixedReady d t s = { s with txt := t, len := descEffmax d, stage := some .bemit } := by
  simp [fixedReady, h]

theorem varReady_within (h : measureText d t = some n) (hmax : n ≤ descEffmax d) :
    varReady d t s = { s with txt := t, len := n, stage := some .bpfx } := by
  simp [varReady, h, Nat.not_lt.2 hmax]

/-- A text under BIN that is no whole number of bytes, under either discipline. -/
theorem ready_unmeasured (h : measureText d t = none) :
    fixedReady d t s = s.raise .buildError .beValueEnc (some s.fidx) ∧
      varReady d t s = s.raise .buildError .beValueEnc (some s.fidx) := by
  simp [fixedReady, varReady, h]

theorem fixedReady_otherWidth (h : measureText d t = some n) (hmax : n ≠ descEffmax d) :
    fixedReady d t s = s.raise .buildError .beFixedLen (some s.fidx) := by
  simp [fixedReady, h, hmax]

theorem varReady_over (h : measureText d t = some n) (hmax : descEffmax d < n) :
    varReady d t s = s.raise .buildError .beTooLong (some s.fidx) := by
  simp [varReady, h, hmax]

/-- The rows of the FIXED format with the texts that they format: one operation at three paddings. -/
theorem exec_bfmtFixed {x : Instr × Bytes}
    (hx : x ∈ [(Instr.bfmtFixedN d, padL (str (s.val s.fidx)) 0x30 (descMax d)),
      (.bfmtFixedTA d, padL (str (s.val s.fidx)) 0x20 (descMax d)),
      (.bfmtFixedTS d, padL (str (s.val s.fidx)) 0x20 (descMax d)),
      (.bfmtFixedTAn d, padL (str (s.val s.fidx)) 0x20 (descMax d)),
      (.bfmtFixedTAs d, padL (str (s.val s.fidx)) 0x20 (descMax d)),
      (.bfmtFixedTNs d, padL (str (s.val s.fidx)) 0x20 (descMax d)),
      (.bfmtFixedTAns d, padL (str (s.val s.fidx)) 0x20 (descMax d)),
      (.bfmtFixedPB d, str (s.val s.fidx)), (.bfmtFixedPZ d, str (s.val s.fidx))]) :
    ∃ pad, exec x.1 s = .next (fixedFormat d pad s) ∧ pad (str (s.val s.fidx)) = x.2 := by
  simp only [List.mem_cons, List.not_mem_nil, or_false] at hx
  rcases hx with rfl | rfl | rfl | rfl | rfl | rfl | rfl | rfl | rfl
  all_goals exact ⟨_, rfl, rfl⟩

theorem exec_bfmtVar {i : Instr} (hi : i ∈ [Instr.bfmtVarLvar d, .bfmtVarLlvar d, .bfmtVarLllvar d]) :
    exec i s = .next (varReady d (varText d (s.val s.fidx)) s) := by
  simp only [List.mem_cons, List.not_mem_nil, or_false] at hi
  rcases hi with rfl | rfl | rfl <;> rfl

/-- Settles O47: a text of the width of the field is ready. -/
theorem bfmtFixed : Obligations.BfmtFixed := by
  intro s d hv x hx hwidth
  obtain ⟨pad, hexec, hpad⟩ := exec_bfmtFixed hx
  rw [hexec, fixedFormat_value hv, hpad, fixedReady_exact (measureText_eq_some.2 hwidth)]

/-- The text of a variable value by its class and encoding (R272). -/
theorem varText_eq {x : Value} (hplain : ¬(descClass d = some .clsZ ∧ descEnc d = some .bcd) → t = str x)
    (htrack : descClass d = some .clsZ → descEnc d = some .bcd →
      t = (str x).map (fun c => if c = 0x3D#8 then 0x44 else c) ++
        (if (str x).length % 2 = 1 then [0x46] else [])) : varText d x = t := by
  unfold varText
  split
  · next hz => rw [trackEncode_eq, htrack hz.1 hz.2, trackSeparators]
  · next hz => exact (hplain hz).symm

/-- Settles O48: a text no longer than the maximum is ready. -/
theorem bfmtVar : Obligations.BfmtVar := by
  intro s d t n i hi hplain htrack hlen hmax
  rw [exec_bfmtVar hi, varText_eq hplain htrack, varReady_within (measureText_eq_some.2 hlen) hmax]

/-- Settles O49: the value is looked at first, then its measure, then its width. -/
theorem bfmtRefuses : Obligations.BfmtRefuses := by
  refine fun s d hr => ⟨fun x hx => ?fixed, fun i hi => ?var⟩
  case fixed =>
    obtain ⟨pad, hexec, hpad⟩ := exec_bfmtFixed hx
    have hvalue (hv : s.val s.fidx ≠ .absent) : exec x.1 s = .next (fixedReady d x.2 s) := by
      rw [hexec, fixedFormat_value hv, hpad]
    refine ⟨fun hv => ?_, fun hv hbin hodd => ?_, fun hv hbin heven hwidth => ?_, fun hv hbin hwidth => ?_⟩
    · rw [hexec, fixedFormat_absent hv, raise_build _ _ _ _ hr]
    · rw [hvalue hv, (ready_unmeasured (measureText_eq_none.2 ⟨hbin, hodd⟩)).1, raise_build _ _ _ _ hr]
    · have hm : measureText d x.2 = some (x.2.length / 2) := measureText_eq_some.2 (by rw [if_pos hbin]; omega)
      rw [hvalue hv, fixedReady_otherWidth hm (by omega), raise_build _ _ _ _ hr]
    · have hm : measureText d x.2 = some x.2.length := measureText_eq_some.2 (if_neg hbin ▸ rfl)
      rw [hvalue hv, fixedReady_otherWidth hm hwidth, raise_build _ _ _ _ hr]
  case var =>
    rw [exec_bfmtVar hi]
    generalize varText d (s.val s.fidx) = t
    refine ⟨fun hbin hodd => ?_, fun hbin heven hmax => ?_, fun hbin hmax => ?_⟩
    · rw [(ready_unmeasured (measureText_eq_none.2 ⟨hbin, hodd⟩)).2, raise_build _ _ _ _ hr]
    · have hm : measureText d t = some (t.length / 2) := measureText_eq_some.2 (by rw [if_pos hbin]; omega)
      rw [varReady_over hm (by omega), raise_build _ _ _ _ hr]
    · have hm : measureText d t = some t.length := measureText_eq_some.2 (if_neg hbin ▸ rfl)
      rw [varReady_over hm hmax, raise_build _ _ _ _ hr]

/-! ### The prefix stage (R274 to R276) -/

/-- The decimal text of a length packs into the bytes of its width (R133). -/
theorem bcdEncode_lengthText (hw : 1 ≤ w) (hn : n < 10 ^ w) :
    ∃ v, bcdEncode (lengthText w n) = some v ∧ v.length = ceil2 w := by
  obtain ⟨v, hv, hlen, -⟩ := bcdEncode_digits _ (lengthText_digits w n)
  exact ⟨v, hv, by rw [hlen, lengthText_length hw hn]⟩

theorem prefixAscii_digits (h : s.len < 10 ^ w) : prefixAscii w s = emitPrefix (lengthText w s.len) s :=
  if_neg (Nat.not_le.2 h)

theorem prefixBcd_digits (h : s.len < 10 ^ w) (hv : bcdEncode (lengthText w s.len) = some v) :
    prefixBcd w s = emitPrefix v s := by
  simp [prefixBcd, Nat.not_le.2 h, hv]

theorem prefixBin_bytes (hm : s.params.binLenMode = .beBytes) (h : s.len < 256 ^ w) :
    prefixBin w s = emitPrefix (beBytes w s.len) s := by
  simp [prefixBin, hm, Nat.not_le.2 h]

/-- A prefix that fits is behind TXLEN, and the emit stage follows. -/
theorem emitPrefix_emitted (h : s.txlen + v.length ≤ s.params.bufCap) :
    emitPrefix v s = { s with
        txbuf := (emitPrefix v s).txbuf, txlen := s.txlen + v.length, stage := some .bemit } ∧
      Emitted s (emitPrefix v s) v := by
  rw [emitPrefix_ok h]
  exact ⟨rfl, rfl, stored_memWriteRange _ _ _⟩

/-- Settles O50: the rows of each encoding are one operation at the widths 1, 2 and 3. -/
theorem bpfx : Obligations.Bpfx := by
  refine fun s d => ⟨fun x hx hlen hcap => ?ascii, fun x hx hlen hcap => ?bcd, fun x hx hm hlen hcap => ?bin⟩
  case ascii =>
    have hrow : exec x.1 s = .next (prefixAscii x.2 s) ∧ 1 ≤ x.2 := by
      simp only [List.mem_cons, List.not_mem_nil, or_false] at hx
      rcases hx with rfl | rfl | rfl <;> exact ⟨rfl, by simp⟩
    obtain ⟨hexec, hw⟩ := hrow
    have hwidth := lengthText_length hw hlen
    have hemit := emitPrefix_emitted (s := s) (v := lengthText x.2 s.len) (by rwa [hwidth])
    rw [hwidth] at hemit
    exact ⟨_, hexec.trans (congrArg _ (prefixAscii_digits hlen)), hemit⟩
  case bcd =>
    have hrow : exec x.1 s = .next (prefixBcd x.2 s) ∧ 1 ≤ x.2 := by
      simp only [List.mem_cons, List.not_mem_nil, or_false] at hx
      rcases hx with rfl | rfl | rfl <;> exact ⟨rfl, by simp⟩
    obtain ⟨hexec, hw⟩ := hrow
    obtain ⟨v, hv, hwidth⟩ := bcdEncode_lengthText hw hlen
    rw [← ceil2, ← hwidth] at hcap ⊢
    obtain ⟨hkeeps, hemit⟩ := emitPrefix_emitted hcap
    exact ⟨_, v, hexec.trans (congrArg _ (prefixBcd_digits hlen hv)), hkeeps, hv, hemit⟩
  case bin =>
    have hexec : exec x.1 s = .next (prefixBin x.2 s) := by
      simp only [List.mem_cons, List.not_mem_nil, or_false] at hx
      rcases hx with rfl | rfl | rfl <;> rfl
    have hwidth := beBytes_length x.2 s.len
    obtain ⟨hkeeps, hemit⟩ := emitPrefix_emitted (s := s) (v := beBytes x.2 s.len) (by rwa [hwidth])
    rw [hwidth] at hkeeps
    exact ⟨_, _, hexec.trans (congrArg _ (prefixBin_bytes hm hlen)), hkeeps, hwidth,
      (beNat_beBytes ..).trans (Nat.mod_eq_of_lt hlen), hemit⟩

/-! ### The emit stage (R280 to R282) -/

/-- The three rows of the emit stage, once the text packs. -/
theorem exec_bemit {i : Instr} (h : (i = .bemitAscii d ∧ v = s.txt) ∨ (i = .bemitBcd d ∧ bcdEncode s.txt = some v) ∨
    (i = .bemitBin d ∧ hexDecode s.txt = some v)) : exec i s = .next (emitValue v s) := by
  rcases h with ⟨rfl, rfl⟩ | ⟨rfl, hv⟩ | ⟨rfl, hv⟩
  · rfl
  · exact congrArg (fun r => Host.Outcome.next (emitPacked r s)) hv
  · exact congrArg (fun r => Host.Outcome.next (emitPacked r s)) hv

/-- Settles O51: the value is emitted, and the walk goes on after the field. -/
theorem bemit : Obligations.Bemit := by
  intro s d v i hi hcap
  obtain ⟨hkeeps, hgoes⟩ :=
    nextField_spec { s with txbuf := memWriteRange s.txbuf s.txlen v, txlen := s.txlen + v.length } s.fidx
  refine ⟨_, (exec_bemit hi).trans (congrArg _ (emitValue_ok hcap)), ?_, ?_, hgoes⟩
  · rw [hkeeps]
  · rw [hkeeps]
    exact ⟨rfl, stored_memWriteRange _ _ _⟩

/-! ### How the prefix and the emit stage end a BUILD -/

theorem prefix_over (h : 10 ^ w ≤ s.len) :
    prefixAscii w s = s.raise .buildError .bePrefixOvf (some s.fidx) ∧
      prefixBcd w s = s.raise .buildError .bePrefixOvf (some s.fidx) := ⟨if_pos h, if_pos h⟩

theorem prefixBcd_unpacked (h : bcdEncode (lengthText w s.len) = none) (hlen : s.len < 10 ^ w) :
    prefixBcd w s = s.raise .buildError .beValueEnc (some s.fidx) := by
  simp only [prefixBcd, if_neg (Nat.not_le.2 hlen), h]

theorem prefixBin_refuse (hm : s.params.binLenMode = .refuse) :
    prefixBin w s = s.raise .specError .seHdrEnc (some s.fidx) := by
  simp only [prefixBin, hm]

theorem prefixBin_over (hm : s.params.binLenMode = .beBytes) (h : 256 ^ w ≤ s.len) :
    prefixBin w s = s.raise .buildError .bePrefixOvf (some s.fidx) := by
  simp only [prefixBin, hm, if_pos h]

theorem prefixAscii_full (hw : 1 ≤ w) (h : s.len < 10 ^ w) (hcap : s.params.bufCap < s.txlen + w) :
    prefixAscii w s = s.raise .buildError .beTxOvf none := by
  rw [prefixAscii_digits h, emitPrefix_full (by rwa [lengthText_length hw h])]

theorem prefixBcd_full (hw : 1 ≤ w) (h : s.len < 10 ^ w) (hcap : s.params.bufCap < s.txlen + ceil2 w) :
    prefixBcd w s = s.raise .buildError .beTxOvf none := by
  obtain ⟨v, hv, hwidth⟩ := bcdEncode_lengthText hw h
  rw [prefixBcd_digits h hv, emitPrefix_full (by rwa [hwidth])]

theorem prefixBin_full (hm : s.params.binLenMode = .beBytes) (h : s.len < 256 ^ w)
    (hcap : s.params.bufCap < s.txlen + w) : prefixBin w s = s.raise .buildError .beTxOvf none := by
  rw [prefixBin_bytes hm h, emitPrefix_full (by rwa [beBytes_length])]

/-- A row that raises while BUILD runs. -/
theorem next_raise_build {u : State} {k : Kind} {c : Cause} {key : Option Nat} (hr : s.running = .build)
    (h : u = s.raise k c key) : (.next u : Out) = .next { s.errEnd k c key with txlen := 0 } :=
  congrArg _ (h.trans (raise_build _ _ _ _ hr))

/-- Settles O52: the length against its width, the text that does not pack, and the room in TXBUF. -/
theorem emitRefuses : Obligations.EmitRefuses := by
  refine fun s d hr => ⟨fun x hx hlen => ?width, fun x hx => ?bin, fun x hx hlen hcap => ?full,
    fun hv => ?bcdText, fun hv => ?binText, fun i v hi hcap => ?valueFull⟩
  case width =>
    simp only [List.mem_cons, List.not_mem_nil, or_false] at hx
    rcases hx with rfl | rfl | rfl | rfl | rfl | rfl
    case inl | inr.inl | inr.inr.inl => exact next_raise_build hr (prefix_over hlen).1
    all_goals exact next_raise_build hr (prefix_over hlen).2
  case bin =>
    simp only [List.mem_cons, List.not_mem_nil, or_false] at hx
    rcases hx with rfl | rfl | rfl
    all_goals exact ⟨fun hm => next_raise_build hr (prefixBin_refuse hm),
      fun hm hlen => next_raise_build hr (prefixBin_over hm hlen),
      fun hm hlen hcap => next_raise_build hr (prefixBin_full hm hlen hcap)⟩
  case full =>
    simp only [List.mem_cons, List.not_mem_nil, or_false] at hx
    rcases hx with rfl | rfl | rfl | rfl | rfl | rfl
    · exact next_raise_build hr (prefixAscii_full (w := 1) (by decide) hlen hcap)
    · exact next_raise_build hr (prefixAscii_full (w := 2) (by decide) hlen hcap)
    · exact next_raise_build hr (prefixAscii_full (w := 3) (by decide) hlen hcap)
    · exact next_raise_build hr (prefixBcd_full (w := 1) (by decide) hlen hcap)
    · exact next_raise_build hr (prefixBcd_full (w := 2) (by decide) hlen hcap)
    · exact next_raise_build hr (prefixBcd_full (w := 3) (by decide) hlen hcap)
  case bcdText => exact next_raise_build hr (congrArg (emitPacked · s) hv)
  case binText => exact next_raise_build hr (congrArg (emitPacked · s) hv)
  case valueFull =>
    rw [exec_bemit hi]
    exact next_raise_build hr (emitValue_full hcap)

end Sys2Proof.Machine

end

section
/-! The three stages of a field of a BUILD against the reference functions of the build path (R286): each hands on what
the reference function gives, or it raises where the reference function gives nothing. -/

namespace Sys2Proof.Machine

variable {s : State} {v t : Bytes} {n : Nat}

/-- A step of BUILD ends the command with an error. -/
def BuildStops (s u : State) : Prop := ∃ k c key, (k = .buildError ∨ k = .specError) ∧ u = s.raise k c key

theorem buildStops_buildError {u : State} {c : Cause} {key : Option Nat} (h : u = s.raise .buildError c key) :
    BuildStops s u := ⟨_, _, _, .inl rfl, h⟩

theorem buildStops_specError {u : State} {c : Cause} {key : Option Nat} (h : u = s.raise .specError c key) :
    BuildStops s u := ⟨_, _, _, .inr rfl, h⟩

/-! ### The format stage (R264 to R267, R272, R273) -/

/-- What follows the format stage: a FIXED field has no prefix (R113). -/
def afterFormat (d : Word) : DStage := if discOfCode (descLdisc d) = .fixed then .bemit else .bpfx

/-- A formatted text is measured. -/
def textReady (d : Word) (t : Bytes) (s : State) : State :=
  if discOfCode (descLdisc d) = .fixed then fixedReady d t s else varReady d t s

theorem textReady_of_fieldLength {d : Word} (h : fieldLength d t = some n) :
    textReady d t s = { s with txt := t, len := n, stage := some (afterFormat d) } := by
  obtain ⟨hm, hmax⟩ := Option.filter_eq_some_iff.1 h
  unfold textReady afterFormat
  split
  · next hfixed =>
    obtain rfl : n = descEffmax d := by simpa [hfixed] using hmax
    exact fixedReady_exact hm
  · next hvar => exact varReady_within hm (by simpa [hvar] using hmax)

theorem buildStops_textReady {d : Word} (h : fieldLength d t = none) : BuildStops s (textReady d t s) := by
  unfold textReady
  cases hm : measureText d t with
  | none =>
    obtain ⟨hfixed, hvar⟩ := ready_unmeasured (s := s) hm
    rw [hfixed, hvar, ite_self]
    exact buildStops_buildError rfl
  | some n =>
    simp only [fieldLength, hm, Option.filter_eq_none_iff, Option.some.injEq] at h
    split
    · next hdisc => exact buildStops_buildError (fixedReady_otherWidth hm (by simpa [hdisc] using h))
    · next hdisc => exact buildStops_buildError (varReady_over hm (by simpa [hdisc] using h))

/-- How a FIXED value of a class is padded (R264 to R266). -/
def fixedPad (d : Word) : Class → Bytes → Bytes
  | .clsN, t => padL t 0x30 (descMax d)
  | .clsB, t => t
  | .clsZ, t => t
  | _, t => padL t 0x20 (descMax d)

theorem fieldText_fixed {d : Word} {x : Value} (h : discOfCode (descLdisc d) = .fixed) :
    fieldText d x = if x = .absent then none else (descClass d).map fun c => fixedPad d c (str x) := by
  unfold fieldText
  rw [if_pos h]
  cases x with
  | absent => cases descClass d <;> rfl
  | _ =>
    cases descClass d with
    | none => rfl
    | some c => cases c <;> rfl

theorem fieldText_var {d : Word} {x : Value} (h : discOfCode (descLdisc d) ≠ .fixed) :
    fieldText d x = some (varText d x) := if_neg h

/-- The format stage of a discipline and a class (R105). -/
def formatOperation (disc : Disc) (cls : Option Class) (d : Word) (s : State) : State :=
  if disc = .fixed then
    match cls with
    | some c => fixedFormat d (fixedPad d c) s
    | none => s.raise .specError .seNoEntry (some s.fidx)
  else formatVar d s

theorem fieldStage_bfmt (hv : descV s.desc = true) : fieldStage .bfmt s =
    .next (formatOperation (discOfCode (descLdisc s.desc)) (descClass s.desc) s.desc s) := by
  simp only [fieldStage, decodeMicro, hv, descClass]
  cases discOfCode (descLdisc s.desc) with
  | fixed =>
    cases classOfCode (descCls s.desc) with
    | none => rfl
    | some c => cases c <;> rfl
  | _ => rfl

/-- The format stage measures the text of the reference function. -/
theorem formatOperation_of_fieldText {d : Word} (h : fieldText d (s.val s.fidx) = some t) :
    formatOperation (discOfCode (descLdisc d)) (descClass d) d s = textReady d t s := by
  unfold formatOperation textReady
  split
  · next hfixed =>
    rw [fieldText_fixed hfixed] at h
    split at h
    · cases h
    · next hx =>
      obtain ⟨c, hc, rfl⟩ := Option.map_eq_some_iff.1 h
      rw [hc]
      exact fixedFormat_value hx
  · next hvar =>
    rw [fieldText_var hvar] at h
    cases h
    rfl

/-- A FIXED field without a value or without a class has no text. -/
theorem buildStops_formatOperation {d : Word} (h : fieldText d (s.val s.fidx) = none) :
    BuildStops s (formatOperation (discOfCode (descLdisc d)) (descClass d) d s) := by
  by_cases hfixed : discOfCode (descLdisc d) = .fixed
  · rw [fieldText_fixed hfixed] at h
    rw [formatOperation.eq_def, if_pos hfixed]
    cases hc : descClass d with
    | none => exact buildStops_specError rfl
    | some c =>
      have hx : s.val s.fidx = .absent := by simpa [hc] using h
      exact buildStops_buildError (fixedFormat_absent hx)
  · rw [fieldText_var hfixed] at h
    cases h

/-! ### The prefix stage (R274 to R276) -/

/-- The prefix stage of a length encoding and a width (R105). -/
def prefixOperation (lenc : Option Enc) (w : Nat) (s : State) : State :=
  match lenc with
  | some .ascii => prefixAscii w s
  | some .bcd => prefixBcd w s
  | some .bin => prefixBin w s
  | none => s.raise .specError .seNoEntry (some s.fidx)

theorem fieldStage_bpfx (hv : descV s.desc = true) (hvar : discOfCode (descLdisc s.desc) ≠ .fixed) :
    fieldStage .bpfx s =
      .next (prefixOperation (encOfCode (descLenc s.desc)) (prefixDigits (discOfCode (descLdisc s.desc))) s) := by
  simp only [fieldStage, decodeMicro, hv]
  cases hdisc : discOfCode (descLdisc s.desc) with
  | fixed => exact absurd hdisc hvar
  | _ =>
    cases encOfCode (descLenc s.desc) with
    | none => rfl
    | some e => cases e <;> rfl

/-- The prefix stage emits the prefix of the reference function. -/
theorem prefixOperation_of_buildPrefix {d : Word} (hvar : discOfCode (descLdisc d) ≠ .fixed)
    (h : buildPrefix s.params.binLenMode d s.len = some v) :
    prefixOperation (encOfCode (descLenc d)) (prefixDigits (discOfCode (descLdisc d))) s = emitPrefix v s := by
  simp only [buildPrefix, if_neg hvar] at h
  generalize encOfCode (descLenc d) = lenc, prefixDigits (discOfCode (descLdisc d)) = w at h ⊢
  split at h
  · obtain ⟨hlen, he⟩ := Option.ite_none_right_eq_some.1 h
    cases he
    exact prefixAscii_digits hlen
  · obtain ⟨hlen, hv⟩ := Option.ite_none_right_eq_some.1 h
    exact prefixBcd_digits hlen hv
  · next hm =>
    obtain ⟨hlen, he⟩ := Option.ite_none_right_eq_some.1 h
    cases he
    exact prefixBin_bytes hm hlen
  · cases h
  · cases h

/-- A length that has no prefix ends the command. -/
theorem buildStops_prefixOperation {d : Word} (hvar : discOfCode (descLdisc d) ≠ .fixed)
    (h : buildPrefix s.params.binLenMode d s.len = none) :
    BuildStops s (prefixOperation (encOfCode (descLenc d)) (prefixDigits (discOfCode (descLdisc d))) s) := by
  simp only [buildPrefix, if_neg hvar] at h
  generalize encOfCode (descLenc d) = lenc, prefixDigits (discOfCode (descLdisc d)) = w at h ⊢
  split at h
  · have hlen : 10 ^ w ≤ s.len := by simpa using h
    exact buildStops_buildError (prefix_over hlen).1
  · by_cases hlen : s.len < 10 ^ w
    · rw [if_pos hlen] at h
      exact buildStops_buildError (prefixBcd_unpacked h hlen)
    · exact buildStops_buildError (prefix_over (Nat.not_lt.1 hlen)).2
  · next hm =>
    have hlen : 256 ^ w ≤ s.len := by simpa using h
    exact buildStops_buildError (prefixBin_over hm hlen)
  · next hm => exact buildStops_specError (prefixBin_refuse hm)
  · exact buildStops_specError rfl

/-! ### The emit stage (R280 to R282) -/

/-- The emit stage of an encoding (R105). -/
def emitOperation (denc : Option Enc) (s : State) : State :=
  match denc with
  | some .ascii => emitValue s.txt s
  | some .bcd => emitPacked (bcdEncode s.txt) s
  | some .bin => emitPacked (hexDecode s.txt) s
  | none => s.raise .specError .seNoEntry (some s.fidx)

theorem fieldStage_bemit (hv : descV s.desc = true) :
    fieldStage .bemit s = .next (emitOperation (descEnc s.desc) s) := by
  simp only [fieldStage, decodeMicro, hv, descEnc]
  cases encOfCode (descDenc s.desc) with
  | none => rfl
  | some e => cases e <;> rfl

/-- The emit stage emits the packed value of the reference function. -/
theorem emitOperation_of_packValue {d : Word} (h : packValue d s.txt = some v) :
    emitOperation (descEnc d) s = emitValue v s := by
  unfold packValue at h
  generalize descEnc d = denc at h ⊢
  split at h
  · cases h
    rfl
  · exact congrArg (emitPacked · s) h
  · exact congrArg (emitPacked · s) h
  · cases h

/-- A text that does not pack ends the command. -/
theorem buildStops_emitOperation {d : Word} (h : packValue d s.txt = none) :
    BuildStops s (emitOperation (descEnc d) s) := by
  unfold packValue at h
  generalize descEnc d = denc at h ⊢
  split at h
  · cases h
  · exact buildStops_buildError (congrArg (emitPacked · s) h)
  · exact buildStops_buildError (congrArg (emitPacked · s) h)
  · exact buildStops_specError rfl

/-- Bytes for which TXBUF has no room end the command, at either stage. -/
theorem buildStops_emit (h : s.params.bufCap < s.txlen + v.length) :
    BuildStops s (emitPrefix v s) ∧ BuildStops s (emitValue v s) :=
  ⟨buildStops_buildError (emitPrefix_full h), buildStops_buildError (emitValue_full h)⟩

end Sys2Proof.Machine

end

section
/-! The FIELD phase of a BUILD against the reference functions (R260, R286): from each field on the sequencer sends the
bytes that the reference function gives, or the command ends with an error where it gives none or they do not fit. -/

namespace Sys2Proof.Machine

variable {s t u : State} {v : Bytes}

/-! ### The course of a BUILD -/

/-- A framer in the middle of a BUILD. -/
structure State.Building (s : State) : Prop where
  running : s.running = .build
  busy : s.busy = true
  reslen : s.reslen = 0

/-- A state but for TXBUF, TXLEN, PHASE, FIDX and the model's latches: what the FIELD phase of a BUILD leaves alone. -/
def State.base (s : State) : State :=
  { s with txbuf := [], txlen := 0, phase := .idle, fidx := 0, stage := none, desc := 0, len := 0, txt := [] }

theorem State.Building.of_base (hb : s.Building) (h : u.base = s.base) : u.Building where
  running := (congrArg State.running h).trans hb.running
  busy := (congrArg State.busy h).trans hb.busy
  reslen := (congrArg State.reslen h).trans hb.reslen

theorem params_of_base (h : u.base = s.base) : u.params = s.params := congrArg (fun w => w.params) h

theorem pres_of_base (h : u.base = s.base) : u.pres = s.pres := congrArg (fun w => w.pres) h

theorem catWord_of_base (h : u.base = s.base) : u.catWord = s.catWord := congrArg (fun w => w.catWord) h

theorem val_of_base (h : u.base = s.base) : u.val = s.val := congrArg (fun w => w.val) h

/-- A BUILD from `s` has ended in `t` with an error (R340, R347); what is in TXBUF and FIDX is left open. -/
def Aborted (s t : State) : Prop :=
  ∃ k c key m f, (k = .buildError ∨ k = .specError) ∧ t = { s.errEnd k c key with txbuf := m, txlen := 0, fidx := f }

/-- The sequencer at work ends the BUILD with an error. -/
def State.Aborts (s : State) : Prop := ∃ t, s.RunsTo t ∧ Aborted s t

theorem Aborted.of_base (h : u.base = s.base) (ht : Aborted u t) : Aborted s t := by
  obtain ⟨k, c, key, m, f, hk, rfl⟩ := ht
  exact ⟨k, c, key, m, f, hk, congrArg (fun w => { w.errEnd k c key with txbuf := m, txlen := 0, fidx := f }) h⟩

theorem aborted_raise (hr : s.running = .build) {k : Kind} (c : Cause) (key : Option Nat)
    (hk : k = .buildError ∨ k = .specError) : Aborted s (s.raise k c key) :=
  ⟨k, c, key, s.txbuf, s.fidx, hk, raise_build s k c key hr⟩

theorem State.Building.aborts (hb : s.Building) (hstep : seqStep s = .next u) (h : BuildStops s u) : s.Aborts := by
  obtain ⟨k, c, key, hk, rfl⟩ := h
  exact ⟨_, runsTo_last hstep rfl, aborted_raise hb.running c key hk⟩

theorem State.Building.runsTo_step (hb : s.Building) (hstep : seqStep s = .next u) (hbu : u.busy = true)
    (h : u.RunsTo t) : s.RunsTo t := by
  intro k hk
  rcases seqStep_spec hb.reslen hstep with hends | ⟨-, hrank⟩
  · exact absurd (hends.busy.symm.trans hbu) nofun
  · cases k with
    | zero => have := seqRank_pos s; omega
    | succ k =>
      simp only [seqRun, hstep, hbu, if_true]
      exact h k (by omega)

/-! ### Sending bytes -/

/-- From `s` the sequencer sends the bytes `r` and comes to a state as `Q` says, or it ends the BUILD with an error: `r`
is no bytes, or they do not fit TXBUF. -/
def State.Sends (s : State) (r : Option Bytes) (Q : State → Prop) : Prop :=
  (∃ v u, r = some v ∧ s.txlen + v.length ≤ s.params.bufCap ∧ Emitted s u v ∧ u.base = s.base ∧
      (∀ t, u.RunsTo t → s.RunsTo t) ∧ Q u) ∨
    (∀ v, r = some v → s.params.bufCap < s.txlen + v.length) ∧ s.Aborts

variable {r r1 r2 : Option Bytes} {Q Q1 Q2 : State → Prop}

theorem Emitted.refl (s : State) : Emitted s s [] := ⟨rfl, Stored.refl _ _⟩

/-- Nothing is left to send. -/
theorem sends_nil (hcap : s.txlen ≤ s.params.bufCap) (h : Q s) : s.Sends (some []) Q :=
  .inl ⟨[], s, rfl, hcap, .refl s, rfl, fun _ => id, h⟩

/-- A part after another. -/
theorem State.Sends.bind (h : s.Sends r1 Q1)
    (hnext : ∀ u, u.base = s.base → u.txlen ≤ u.params.bufCap → Q1 u → u.Sends r2 Q2) :
    s.Sends (r1.bind fun a => r2.map fun b => a ++ b) Q2 := by
  rcases h with ⟨a, u, rfl, hcap, hem, hbase, hrun, hQ⟩ | ⟨hover, hab⟩
  · have hlen := hem.1
    have hparams := params_of_base hbase
    rcases hnext u hbase (by rw [hlen, hparams]; exact hcap) hQ with
      ⟨b, w, rfl, hcap', hem', hbase', hrun', hQ'⟩ | ⟨hover, t, ht, hab⟩
    · refine .inl ⟨a ++ b, w, rfl, ?_, hem.append hem', hbase'.trans hbase, fun t ht => hrun t (hrun' t ht), hQ'⟩
      rw [hlen, hparams] at hcap'
      rw [List.length_append]
      omega
    · refine .inr ⟨fun v hv => ?_, t, hrun t ht, hab.of_base hbase⟩
      obtain ⟨b, rfl, rfl⟩ := Option.map_eq_some_iff.1 hv
      have := hover b rfl
      rw [hlen, hparams] at this
      rw [List.length_append]
      omega
  · refine .inr ⟨fun v hv => ?_, hab⟩
    obtain ⟨a, ha, hv⟩ := Option.bind_eq_some_iff.1 hv
    obtain ⟨b, -, rfl⟩ := Option.map_eq_some_iff.1 hv
    have := hover a ha
    rw [List.length_append]
    omega

/-- A step that sends nothing. -/
theorem State.Sends.of_step (hb : s.Building) (hstep : seqStep s = .next u) (hbase : u.base = s.base)
    (htxbuf : u.txbuf = s.txbuf) (htxlen : u.txlen = s.txlen) (h : u.Sends r Q) : s.Sends r Q := by
  have hrun t : u.RunsTo t → s.RunsTo t := hb.runsTo_step hstep (hb.of_base hbase).busy
  unfold State.Sends Emitted at h ⊢
  rw [htxbuf, htxlen, hbase, params_of_base hbase] at h
  rcases h with ⟨v, w, hr, hcap, hem, hbw, hrunw, hQ⟩ | ⟨hover, t, ht, hab⟩
  · exact .inl ⟨v, w, hr, hcap, hem, hbw, fun t ht => hrun t (hrunw t ht), hQ⟩
  · exact .inr ⟨hover, t, hrun t ht, hab.of_base hbase⟩

/-- A step that ends the command where there is nothing to send. -/
theorem sends_none (hb : s.Building) (hstep : seqStep s = .next u) (h : BuildStops s u) : s.Sends none Q :=
  .inr ⟨nofun, hb.aborts hstep h⟩

/-- A step that sends the bytes `v`, where they fit. -/
theorem sends_some (hb : s.Building) (hstep : seqStep s = .next u)
    (hfits : s.txlen + v.length ≤ s.params.bufCap → Emitted s u v ∧ u.base = s.base ∧ Q u)
    (hover : s.params.bufCap < s.txlen + v.length → BuildStops s u) : s.Sends (some v) Q := by
  by_cases hcap : s.txlen + v.length ≤ s.params.bufCap
  · obtain ⟨hem, hbase, hQ⟩ := hfits hcap
    exact .inl ⟨v, u, rfl, hcap, hem, hbase, fun t => hb.runsTo_step hstep (hb.of_base hbase).busy, hQ⟩
  · have hlt := Nat.lt_of_not_le hcap
    refine .inr ⟨fun w hw => ?_, hb.aborts hstep (hover hlt)⟩
    cases hw
    exact hlt

/-! ### The steps of a field (R263) -/

/-- The sequencer is about to read the descriptor of the first of the fields `fs`, or it is in DONE and `last` was the
field before (R31). -/
def State.Facing (s : State) (last : Nat) : List Nat → Prop
  | [] => s.phase = .done ∧ s.fidx = last
  | g :: _ => s.phase = .field ∧ s.fidx = g ∧ s.stage = none

theorem facing_nextField (s : State) (f : Nat) : (s.nextField f).Facing s.fidx (fieldsAfter s.pres f) := by
  rw [State.nextField, nextPresent_eq_head?]
  cases fieldsAfter s.pres f with
  | nil => exact ⟨rfl, rfl⟩
  | cons g gs => exact ⟨rfl, rfl, rfl⟩

/-- The walk to the next field sends nothing. -/
theorem nextField_keeps (s : State) (f : Nat) :
    (s.nextField f).base = s.base ∧ (s.nextField f).txbuf = s.txbuf ∧ (s.nextField f).txlen = s.txlen := by
  rw [(nextField_spec s f).1]
  exact ⟨rfl, rfl, rfl⟩

/-- The field is done. -/
def State.FieldSent (s u : State) : Prop := u.Facing s.fidx (fieldsAfter s.pres s.fidx)

section Field

variable (hb : s.Building) (hp : s.phase = .field)
include hb hp

/-- The emit stage sends the value. -/
theorem sends_bemit (hst : s.stage = some .bemit) (hv : descV s.desc = true) :
    s.Sends (packValue s.desc s.txt) s.FieldSent := by
  have hstep := (seqStep_fieldStage hp hst).trans (fieldStage_bemit hv)
  cases hpack : packValue s.desc s.txt with
  | none => exact sends_none hb hstep (buildStops_emitOperation hpack)
  | some v =>
    rw [emitOperation_of_packValue hpack] at hstep
    refine sends_some hb hstep (fun hcap => ?_) fun hover => (buildStops_emit hover).2
    rw [emitValue_ok hcap]
    obtain ⟨hbase, htxbuf, htxlen⟩ :=
      nextField_keeps { s with txbuf := memWriteRange s.txbuf s.txlen v, txlen := s.txlen + v.length } s.fidx
    exact ⟨⟨htxlen, htxbuf ▸ stored_memWriteRange _ _ _⟩, hbase, facing_nextField _ s.fidx⟩

/-- The prefix stage sends the length. -/
theorem sends_bpfx (hst : s.stage = some .bpfx) (hv : descV s.desc = true)
    (hvar : discOfCode (descLdisc s.desc) ≠ .fixed) :
    s.Sends (buildPrefix s.params.binLenMode s.desc s.len) fun u =>
      u.phase = .field ∧ u.stage = some .bemit ∧ u.desc = s.desc ∧ u.txt = s.txt ∧ u.fidx = s.fidx := by
  have hstep := (seqStep_fieldStage hp hst).trans (fieldStage_bpfx hv hvar)
  cases hpre : buildPrefix s.params.binLenMode s.desc s.len with
  | none => exact sends_none hb hstep (buildStops_prefixOperation hvar hpre)
  | some v =>
    rw [prefixOperation_of_buildPrefix hvar hpre] at hstep
    refine sends_some hb hstep (fun hcap => ?_) fun hover => (buildStops_emit hover).1
    rw [emitPrefix_ok hcap]
    exact ⟨⟨rfl, stored_memWriteRange _ _ _⟩, rfl, hp, rfl, rfl, rfl, rfl⟩

/-- Behind the format stage: the prefix, but for a FIXED field, then the value. -/
theorem sends_formatted (hst : s.stage = some (afterFormat s.desc)) (hv : descV s.desc = true)
    (hcap : s.txlen ≤ s.params.bufCap) :
    s.Sends ((buildPrefix s.params.binLenMode s.desc s.len).bind fun a => (packValue s.desc s.txt).map fun b => a ++ b)
      s.FieldSent := by
  have hvalue : ∀ u : State, u.base = s.base → u.phase = .field ∧ u.stage = some .bemit ∧ u.desc = s.desc ∧
      u.txt = s.txt ∧ u.fidx = s.fidx → u.Sends (packValue s.desc s.txt) s.FieldSent := by
    rintro u hbase ⟨hpu, hstu, hdesc, htxt, hfidx⟩
    have hsent : u.FieldSent = s.FieldSent := by
      unfold State.FieldSent
      rw [hfidx, pres_of_base hbase]
    rw [← hsent, ← hdesc, ← htxt]
    exact sends_bemit (hb.of_base hbase) hpu hstu (hdesc ▸ hv)
  by_cases hfixed : discOfCode (descLdisc s.desc) = .fixed
  · have hpre : buildPrefix s.params.binLenMode s.desc s.len = some [] := if_pos hfixed
    have hstage : s.stage = some .bemit := hst.trans (congrArg some (if_pos hfixed))
    rw [hpre]
    exact (sends_nil hcap (Q := (s = ·)) rfl).bind fun u hbase _ hu =>
      hvalue u hbase (hu ▸ ⟨hp, hstage, rfl, rfl, rfl⟩)
  · have hstage : s.stage = some .bpfx := hst.trans (congrArg some (if_neg hfixed))
    exact (sends_bpfx hb hp hstage hv hfixed).bind fun u hbase _ hu => hvalue u hbase hu

/-- From the format stage on the field sends its bytes. -/
theorem sends_bfmt (hst : s.stage = some .bfmt) (hv : descV s.desc = true) (hcap : s.txlen ≤ s.params.bufCap) :
    s.Sends ((fieldText s.desc (s.val s.fidx)).bind fun t => (fieldLength s.desc t).bind fun n =>
      (buildPrefix s.params.binLenMode s.desc n).bind fun a => (packValue s.desc t).map fun b => a ++ b)
      s.FieldSent := by
  have hstep := (seqStep_fieldStage hp hst).trans (fieldStage_bfmt hv)
  cases htext : fieldText s.desc (s.val s.fidx) with
  | none => exact sends_none hb hstep (buildStops_formatOperation htext)
  | some t =>
    rw [formatOperation_of_fieldText htext] at hstep
    rw [Option.bind_some]
    cases hlen : fieldLength s.desc t with
    | none => exact sends_none hb hstep (buildStops_textReady hlen)
    | some n =>
      rw [textReady_of_fieldLength hlen] at hstep
      exact .of_step hb hstep rfl rfl rfl
        (sends_formatted (s := { s with txt := t, len := n, stage := some (afterFormat s.desc) }) (hb.of_base rfl) hp
          rfl hv hcap)

/-- A field sends what the reference function gives. -/
theorem sends_field (hst : s.stage = none) (hcap : s.txlen ≤ s.params.bufCap) :
    s.Sends (buildField s.params.binLenMode (s.catWord s.fidx) (s.val s.fidx)) s.FieldSent := by
  have hfetch : seqStep s = .next (fetchDescriptor s) := by simp only [seqStep, hp, hst]
  unfold buildField
  split
  case isFalse hv =>
    exact sends_none hb hfetch (buildStops_specError (fetchDescriptor_noEntry (Bool.eq_false_of_not_eq_true hv)))
  case isTrue hv =>
  rw [fetchDescriptor_entry hv, if_pos hb.running] at hfetch
  exact .of_step hb hfetch rfl rfl rfl
    (sends_bfmt (s := { s with desc := s.catWord s.fidx, stage := some .bfmt }) (hb.of_base rfl) hp rfl hv hcap)

end Field

/-! ### The fields in their order (R31) -/

/-- The fields that are still to be sent, to the end of the FIELD phase. -/
theorem sends_fields (fs : List Nat) : ∀ {s : State} {f last : Nat}, s.Building → s.txlen ≤ s.params.bufCap →
    fieldsAfter s.pres f = fs → s.Facing last fs →
    s.Sends (buildFields s.params.binLenMode s.catWord s.val fs) fun u =>
      u.phase = .done ∧ u.fidx = fs.getLastD last := by
  induction fs with
  | nil =>
    intro s f last _ hcap _ hface
    exact sends_nil hcap hface
  | cons g gs ih =>
    intro s f last hb hcap hfs hface
    obtain ⟨hp, rfl, hst⟩ := hface
    obtain ⟨-, hgs⟩ := fieldsAfter_of_cons hfs
    refine (sends_field hb hp hst hcap).bind fun u hbase hcapu hsent => ?_
    rw [← params_of_base hbase, ← catWord_of_base hbase, ← val_of_base hbase, List.getLastD_cons]
    exact ih (hb.of_base hbase) hcapu (pres_of_base hbase ▸ hgs) (hgs ▸ hsent)

end Sys2Proof.Machine

end

section
/-! BUILD against the reference function (O56): START, the MTI phase, the BITMAP phase and the FIELD phase, each either
sending the bytes of the reference function or ending the command as R347 says. -/

namespace Sys2Proof.Machine

variable {s t u : State} {a b : Bytes}

/-! ### The MTI (R210) -/

theorem buildMti_eq_some {d : Word} {strict valid : Bool} {m : Mti} : buildMti d strict valid m = some a ↔
    descV d = true ∧ valid = true ∧ mtiCheck (mtiBytes m) strict = none ∧
      (descEnc d = some .bcd ∧ bcdEncode (mtiBytes m) = some a ∨ descEnc d = some .ascii ∧ mtiBytes m = a) := by
  unfold buildMti
  rcases descEnc d with _ | _ | _ | _ <;> simp [and_assoc]

/-- The MTI phase sends the MTI of the reference function. -/
theorem mtiEmit_of_buildMti (h : buildMti (s.catWord 0) s.strict s.mtiValid s.mti = some a) : mtiEmit s = emit a s := by
  obtain ⟨hv, hvalid, hcheck, ⟨henc, hbcd⟩ | ⟨henc, rfl⟩⟩ := buildMti_eq_some.1 h
  · simp [mtiEmit, catLookup_entry hv, hvalid, hcheck, henc, hbcd]
  · simp [mtiEmit, catLookup_entry hv, hvalid, hcheck, henc]

/-- The MTI is four digits once it has passed, so that it packs (R111). -/
theorem bcdEncode_mti {m : Mti} {strict : Bool} (h : mtiCheck (mtiBytes m) strict = none) :
    ∃ v, bcdEncode (mtiBytes m) = some v ∧ v.length = 2 ∧ bcdDecode v = mtiBytes m := by
  obtain ⟨⟨hlen, hnum⟩, -⟩ := mtiCheck_eq_none.1 h
  obtain ⟨v, hv, hlv, hback⟩ := bcdEncode_digits _ ((isNum_iff _).1 hnum).2
  refine ⟨v, hv, by rw [hlv, hlen]; rfl, hback.trans (if_neg (by omega))⟩

/-- An operation that fails as `e` says, the item of the key `key` being at fault. -/
def HeaderFailure.Raises (e : HeaderFailure) (key : Nat) (s : State) (r : Res Unit) : Prop :=
  (e.kind = .buildError ∨ e.kind = .specError) ∧ e.taken = 0 ∧
    r = .fail { s with errinfo := e.errinfo } e.kind e.cause (some key)

theorem raises_of_fail {k : Kind} {c : Cause} {key : Nat} {r : Res Unit} (h0 : s.errinfo = 0)
    (hk : k = .buildError ∨ k = .specError) (h : r = .fail s k c (some key)) :
    HeaderFailure.Raises { kind := k, cause := c } key s r := by
  have hinfo : { s with errinfo := 0 } = s := by rw [← h0]
  exact ⟨hk, rfl, by rw [h, hinfo]⟩

/-- The MTI phase fails as R210 says. -/
theorem mtiEmit_raises (h0 : s.errinfo = 0) (h : buildMti (s.catWord 0) s.strict s.mtiValid s.mti = none) :
    ∃ e, buildMtiFailure (s.catWord 0) s.strict s.mtiValid s.mti = some e ∧ e.Raises 0 s (mtiEmit s) := by
  by_cases hv : descV (s.catWord 0) = true
  case neg =>
    exact ⟨noEntryFailure, if_neg hv, raises_of_fail h0 (.inr rfl)
      (by rw [mtiEmit, catLookup_none (Bool.eq_false_of_not_eq_true hv), Res.fail_bind])⟩
  by_cases hvalid : s.mtiValid = true
  case neg =>
    exact ⟨_, by rw [buildMtiFailure, if_pos hv, if_neg hvalid],
      raises_of_fail h0 (.inl rfl) (by simp [mtiEmit, catLookup_entry hv, hvalid])⟩
  cases hcheck : mtiCheck (mtiBytes s.mti) s.strict with
  | some c =>
    exact ⟨_, by rw [buildMtiFailure, if_pos hv, if_pos hvalid, hcheck, if_neg nofun], .inl rfl, rfl,
      by simp [mtiEmit, catLookup_entry hv, hvalid, hcheck]⟩
  | none =>
    obtain ⟨v, hbcd, -⟩ := bcdEncode_mti hcheck
    rcases henc : descEnc (s.catWord 0) with _ | _ | _ | _
    case some.ascii => cases h.symm.trans (buildMti_eq_some.2 ⟨hv, hvalid, hcheck, .inr ⟨henc, rfl⟩⟩)
    case some.bcd => cases h.symm.trans (buildMti_eq_some.2 ⟨hv, hvalid, hcheck, .inl ⟨henc, hbcd⟩⟩)
    all_goals
      exact ⟨headerEncodingFailure, by simp [buildMtiFailure, hv, hvalid, hcheck, henc],
        raises_of_fail h0 (.inr rfl) (by simp [mtiEmit, catLookup_entry hv, hvalid, hcheck, henc])⟩

/-! ### The bitmap (R186 to R188) -/

theorem writeWord_of_buildWord {w : BitmapWord} (h : buildWord (s.catWord 1) w = some a) :
    writeWord w s = emit a s := by
  obtain ⟨hv, ⟨henc, rfl⟩ | ⟨henc, rfl⟩⟩ := buildWord_eq_some.1 h
  all_goals simp [writeWord, catLookup_entry hv, henc]

/-- A bitmap word fails as R187 says, whatever its bits. -/
theorem writeWord_raises {w : BitmapWord} (h0 : s.errinfo = 0) (h : buildWord (s.catWord 1) w = none) :
    ∃ e, buildWordFailure (s.catWord 1) = some e ∧ e.Raises 1 s (writeWord w s) := by
  by_cases hv : descV (s.catWord 1) = true
  case neg =>
    exact ⟨noEntryFailure, if_neg hv, raises_of_fail h0 (.inr rfl)
      (by rw [writeWord, catLookup_none (Bool.eq_false_of_not_eq_true hv), Res.fail_bind])⟩
  rcases henc : descEnc (s.catWord 1) with _ | _ | _ | _
  case some.ascii => cases h.symm.trans (buildWord_eq_some.2 ⟨hv, .inr ⟨henc, rfl⟩⟩)
  case some.bin => cases h.symm.trans (buildWord_eq_some.2 ⟨hv, .inl ⟨henc, rfl⟩⟩)
  all_goals
    exact ⟨headerEncodingFailure, by simp [buildWordFailure, hv, henc],
      raises_of_fail h0 (.inr rfl) (by simp [writeWord, catLookup_entry hv, henc])⟩

theorem buildWordFailure_errinfo {d : Word} {e : HeaderFailure} (h : buildWordFailure d = some e) : e.errinfo = 0 := by
  unfold buildWordFailure at h
  split at h
  · split at h <;> cases h
    rfl
  · cases h
    rfl

/-- Whether a word has bytes is a matter of the descriptor alone. -/
theorem buildWord_isSome (d : Word) (w w' : BitmapWord) : (buildWord d w).isSome = (buildWord d w').isSome := by
  unfold buildWord
  rcases descEnc d with _ | _ | _ | _ <;> split <;> rfl

/-- A bitmap fails at its first word. -/
theorem buildWord_of_buildBitmap_none {d : Word} {p : BitVec 128} (h : buildBitmap d p = none) :
    buildWord d (primaryWord p) = none := by
  cases hw : buildWord d (primaryWord p) with
  | none => rfl
  | some v1 =>
    have hsome := buildWord_isSome d (secondaryWord p) (primaryWord p)
    rw [hw, Option.isSome_some] at hsome
    obtain ⟨v2, hv2⟩ := Option.isSome_iff_exists.1 hsome
    cases hp : presBit p 1 with
    | false => cases hw.symm.trans ((buildBitmap_one hp).symm.trans h)
    | true => cases h.symm.trans ((buildBitmap_two hp).2 ⟨v1, v2, hw, hv2, rfl⟩)

/-- The bitmap engine fails as R187 says, PRES[1] being forced before (R186). -/
theorem bitmapEncode_raises (h0 : s.errinfo = 0) (h : buildBitmap (s.catWord 1) (activated s.pres) = none) :
    ∃ e, buildWordFailure (s.catWord 1) = some e ∧ e.Raises 1 { s with pres := activated s.pres } (bitmapEncode s) := by
  obtain ⟨e, he, hk, htaken, hfail⟩ := writeWord_raises (s := { s with pres := activated s.pres }) h0
    (buildWord_of_buildBitmap_none h)
  refine ⟨e, he, hk, htaken, ?_⟩
  rw [bitmapEncode, activate_eq, hfail]
  rfl

/-- An emission in one or in two parts has sent the bytes `v`. -/
def State.Sent (s : State) (v : Bytes) (r : Res Unit) : Prop :=
  (s.txlen + v.length ≤ s.params.bufCap →
    ∃ m, r = .val () { s with txbuf := m, txlen := s.txlen + v.length } ∧ Stored s.txbuf m s.txlen v) ∧
  (s.params.bufCap < s.txlen + v.length →
    ∃ m n, r = .fail { s with txbuf := m, txlen := n } .buildError .beTxOvf none)

theorem sent_emit (s : State) (v : Bytes) : s.Sent v (emit v s) :=
  ⟨fun h => ⟨_, emit_ok h, stored_memWriteRange _ _ _⟩, fun h => ⟨s.txbuf, s.txlen, emit_full h⟩⟩

/-- Where TXBUF is full at the second part, the first one has been sent. -/
theorem sent_emit_emit (s : State) (a b : Bytes) : s.Sent (a ++ b) ((emit a s).bind fun _ u => emit b u) := by
  unfold State.Sent
  rw [List.length_append, ← Nat.add_assoc]
  rcases emit_cases a s with ⟨hcap, ha⟩ | ha
  · rw [ha, Res.bind_val]
    obtain ⟨hfits, hover⟩ :=
      sent_emit { s with txbuf := memWriteRange s.txbuf s.txlen a, txlen := s.txlen + a.length } b
    refine ⟨fun h => ?_, hover⟩
    obtain ⟨m, hm, hstored⟩ := hfits h
    exact ⟨m, hm, (stored_memWriteRange _ _ _).append hstored⟩
  · rw [ha, Res.fail_bind]
    refine ⟨fun h => ?_, fun _ => ⟨s.txbuf, s.txlen, rfl⟩⟩
    rw [emit_ok (by omega)] at ha
    cases ha

/-- The bitmap engine sends the bitmap of the reference function, PRES[1] being forced before. -/
theorem sent_bitmapEncode (h : buildBitmap (s.catWord 1) (activated s.pres) = some b) :
    { s with pres := activated s.pres : State }.Sent b (bitmapEncode s) := by
  rw [bitmapEncode, activate_eq]
  generalize hs1 : ({ s with pres := activated s.pres } : State) = s1
  have hcat : s1.catWord 1 = s.catWord 1 := by rw [← hs1]; rfl
  have hpres : s1.pres = activated s.pres := by rw [← hs1]
  rw [← hcat, ← hpres] at h
  cases hp : presBit s1.pres 1 with
  | false =>
    rw [buildBitmap_one hp] at h
    rw [writeWord_of_buildWord h]
    have hone : ((emit b s1).bind fun _ u =>
        if presBit u.pres 1 then writeWord (secondaryWord u.pres) u else .val () u) = emit b s1 := by
      rcases emit_cases b s1 with ⟨-, hb⟩ | hb <;> rw [hb]
      · simp [hp]
      · rfl
    rw [hone]
    exact sent_emit s1 b
  | true =>
    obtain ⟨v1, v2, hv1, hv2, rfl⟩ := (buildBitmap_two hp).1 h
    rw [writeWord_of_buildWord hv1]
    have htwo : ((emit v1 s1).bind fun _ u =>
        if presBit u.pres 1 then writeWord (secondaryWord u.pres) u else .val () u) =
        (emit v1 s1).bind fun _ u => emit v2 u := by
      rcases emit_cases v1 s1 with ⟨-, hb⟩ | hb <;> rw [hb]
      · simp only [Res.bind_val, hp, if_true]
        exact writeWord_of_buildWord (s := { s1 with txbuf := _, txlen := _ }) hv2
      · rfl
    rw [htwo]
    exact sent_emit_emit s1 v1 v2

/-- No data field reads PRES[1], which BUILD forces (R185). -/
theorem presentFields_activated (p : BitVec 128) : presentFields (activated p) = presentFields p := by
  refine List.filter_congr fun i hi => ?_
  have h2 : i ≠ 1 := by
    have := List.mem_range'_1.1 hi
    omega
  unfold activated
  split
  · rfl
  · rw [presBit_presSet _ _ _ _ ⟨Nat.le_refl 1, by decide⟩, if_neg h2]

/-! ### The phases of a BUILD (R260, R261) -/

/-- The state after START, with a presence map and error information. -/
def State.started (s : State) (p : BitVec 128) (n : Word) : State :=
  { buildStart (s.begin .build) with pres := p, errinfo := n }

/-- The state in which the BITMAP phase begins, the MTI `a` being in TXBUF. -/
def State.afterMti (s : State) (m : Memory) (a : Bytes) : State :=
  { s.started s.pres 0 with txbuf := m, txlen := a.length, phase := .bitmap }

/-- The state in which the BITMAP phase ends, the bytes `v` being in TXBUF. -/
def State.afterBitmap (s : State) (m : Memory) (v : Bytes) : State :=
  { s.started (activated s.pres) 0 with txbuf := m, txlen := v.length, phase := .bitmap }

/-- A framer that is bound runs a BUILD from its START to where it runs to. -/
theorem exec_build_of_runsTo (hb : s.bound = true) (h : (s.started s.pres 0).RunsTo t) : exec .build s = .next t := by
  have hrun : ({ s.begin .build with phase := .start } : State).RunsTo t :=
    State.Building.runsTo_step ⟨rfl, rfl, rfl⟩ rfl rfl h
  exact (seqCommand_of_bound hb .build).trans (hrun seqBound (Nat.le_refl 512))

theorem seqStep_mtiEmit (hr : s.running = .build) (hp : s.phase = .mti) :
    seqStep s = .next ((mtiEmit s).andThen fun _ u => { u with phase := .bitmap }) := by
  simp only [seqStep, hp, mtiPhase, hr, if_true]

theorem seqStep_bitmapEncode (hr : s.running = .build) (hp : s.phase = .bitmap) :
    seqStep s = .next ((bitmapEncode s).andThen fun _ u => u.nextField 1) := by
  simp only [seqStep, hp, bitmapPhase, hr, if_true]

/-- The normal end of a BUILD. -/
theorem donePhase_of_base (hr : s.running = .build) (h : u.base = s.base) : donePhase u =
    { s.finish with
      reslen := 0, resval := BitVec.ofNat 32 u.txlen, txbuf := u.txbuf, txlen := u.txlen, fidx := u.fidx } := by
  have hru : u.running = .build := (congrArg State.running h).trans hr
  rw [donePhase, if_pos hru]
  exact congrArg (fun w : State => { w.finish with
    reslen := 0, resval := BitVec.ofNat 32 u.txlen, txbuf := u.txbuf, txlen := u.txlen, fidx := u.fidx }) h

/-- What a BUILD that has ended with an error leaves (R347). -/
theorem Aborted.outcome {p : BitVec 128} {n : Word} (h : Aborted (s.started p n) t) :
    (t.kind = .buildError ∨ t.kind = .specError) ∧ t.pres = p ∧ t.errinfo = n ∧
      t = { s.errEnd t.kind t.cause t.ekey with
        pres := t.pres, cursor := 0, txbuf := t.txbuf, txlen := 0, fidx := t.fidx, errinfo := t.errinfo } := by
  obtain ⟨k, c, key, m, f, hk, rfl⟩ := h
  exact ⟨hk, rfl, rfl, rfl⟩

section Phases

variable (hb : s.bound = true)
include hb

/-- A failed MTI phase. -/
theorem build_mti_fails (h : buildMti (s.catWord 0) s.strict s.mtiValid s.mti = none) :
    ∃ e, buildMtiFailure (s.catWord 0) s.strict s.mtiValid s.mti = some e ∧
      ∃ t, exec .build s = .next t ∧ Aborted (s.started s.pres e.errinfo) t ∧ e.ReportedIn 0 0 t := by
  obtain ⟨e, he, hk, htaken, hfail⟩ := mtiEmit_raises (s := s.started s.pres 0) rfl h
  have hstep := seqStep_mtiEmit (s := s.started s.pres 0) rfl rfl
  rw [hfail] at hstep
  exact ⟨e, he, _, exec_build_of_runsTo hb (runsTo_last hstep rfl), aborted_raise rfl _ _ hk,
    rfl, rfl, rfl, rfl, by rw [htaken]; rfl⟩

section Mti

variable (ha : buildMti (s.catWord 0) s.strict s.mtiValid s.mti = some a)
include ha

/-- TXBUF has no room for the MTI. -/
theorem build_mti_full (hover : s.params.bufCap < a.length) : ∃ t, exec .build s = .next t ∧
    Aborted (s.started s.pres 0) t ∧ t.kind = .buildError ∧ t.cause = .beTxOvf ∧ t.ekey = none := by
  have hstep := seqStep_mtiEmit (s := s.started s.pres 0) rfl rfl
  have hfull : s.params.bufCap < 0 + a.length := by rwa [Nat.zero_add]
  rw [mtiEmit_of_buildMti (s := s.started s.pres 0) ha, emit_full hfull] at hstep
  exact ⟨_, exec_build_of_runsTo hb (runsTo_last hstep rfl), aborted_raise rfl _ _ (.inl rfl), rfl, rfl, rfl⟩

variable (hcap : a.length ≤ s.params.bufCap)
include hcap

/-- The BITMAP phase begins with the MTI in TXBUF. -/
theorem build_mti_sent : ∃ m, Stored s.txbuf m 0 a ∧ ∀ t, (s.afterMti m a).RunsTo t → exec .build s = .next t := by
  have hstep := seqStep_mtiEmit (s := s.started s.pres 0) rfl rfl
  obtain ⟨hfits, -⟩ := sent_emit (s.started s.pres 0) a
  obtain ⟨m, hm, hstored⟩ := hfits (by rwa [← Nat.zero_add a.length] at hcap)
  rw [mtiEmit_of_buildMti (s := s.started s.pres 0) ha, hm] at hstep
  refine ⟨m, hstored, fun t ht => exec_build_of_runsTo hb (State.Building.runsTo_step ⟨rfl, rfl, rfl⟩ hstep rfl ?_)⟩
  rw [State.afterMti, ← Nat.zero_add a.length] at ht
  exact ht

/-- A failed bitmap. -/
theorem build_bitmap_fails (h : buildBitmap (s.catWord 1) (activated s.pres) = none) :
    ∃ e, buildWordFailure (s.catWord 1) = some e ∧
      ∃ t, exec .build s = .next t ∧ Aborted (s.started (activated s.pres) 0) t ∧ e.ReportedIn 1 0 t := by
  obtain ⟨m, -, hrun⟩ := build_mti_sent hb ha hcap
  obtain ⟨e, he, hk, htaken, hfail⟩ := bitmapEncode_raises (s := s.afterMti m a) rfl h
  have hstep := seqStep_bitmapEncode (s := s.afterMti m a) rfl rfl
  rw [hfail, buildWordFailure_errinfo he] at hstep
  exact ⟨e, he, _, hrun _ (runsTo_last hstep rfl), (aborted_raise rfl _ _ hk).of_base rfl, rfl, rfl, rfl,
    (buildWordFailure_errinfo he).symm, by rw [htaken]; rfl⟩

variable (hmap : buildBitmap (s.catWord 1) (activated s.pres) = some b)
include hmap

/-- TXBUF has no room for the bitmap. -/
theorem build_bitmap_full (hover : s.params.bufCap < a.length + b.length) : ∃ t, exec .build s = .next t ∧
    Aborted (s.started (activated s.pres) 0) t ∧ t.kind = .buildError ∧ t.cause = .beTxOvf ∧ t.ekey = none := by
  obtain ⟨m, -, hrun⟩ := build_mti_sent hb ha hcap
  obtain ⟨m', n, hfail⟩ := (sent_bitmapEncode (s := s.afterMti m a) hmap).2 hover
  have hstep := seqStep_bitmapEncode (s := s.afterMti m a) rfl rfl
  rw [hfail] at hstep
  exact ⟨_, hrun _ (runsTo_last hstep rfl), (aborted_raise rfl _ _ (.inl rfl)).of_base rfl, rfl, rfl, rfl⟩

variable (hcap2 : (a ++ b).length ≤ s.params.bufCap)
include hcap2

/-- The FIELD phase begins with the MTI and the bitmap in TXBUF. -/
theorem build_bitmap_sent : ∃ m, Stored s.txbuf m 0 (a ++ b) ∧
    ∀ t, ((s.afterBitmap m (a ++ b)).nextField 1).RunsTo t → exec .build s = .next t := by
  obtain ⟨m, hstored, hrun⟩ := build_mti_sent hb ha hcap
  obtain ⟨m', hval, hstored'⟩ := (sent_bitmapEncode (s := s.afterMti m a) hmap).1 (List.length_append ▸ hcap2)
  have hstep := seqStep_bitmapEncode (s := s.afterMti m a) rfl rfl
  rw [hval] at hstep
  refine ⟨m', hstored.append (by rwa [Nat.zero_add]), fun t ht => hrun t ?_⟩
  refine State.Building.runsTo_step ⟨rfl, rfl, rfl⟩ hstep (seqGoes_nextField _ _).busy ?_
  rw [State.afterBitmap, List.length_append] at ht
  exact ht

/-- The FIELD phase, and the normal end. -/
theorem build_fields :
    (∃ c m, buildFields s.params.binLenMode s.catWord s.val (presentFields s.pres) = some c ∧
      (a ++ b ++ c).length ≤ s.params.bufCap ∧ Stored s.txbuf m 0 (a ++ b ++ c) ∧
      exec .build s = .next { s.okEnd with
        pres := activated s.pres, cursor := 0, txbuf := m, txlen := (a ++ b ++ c).length
        fidx := (presentFields s.pres).getLastD s.fidx, resval := BitVec.ofNat 32 (a ++ b ++ c).length }) ∨
    (∀ c, buildFields s.params.binLenMode s.catWord s.val (presentFields s.pres) = some c →
      s.params.bufCap < (a ++ b ++ c).length) ∧
      ∃ t, exec .build s = .next t ∧ Aborted (s.started (activated s.pres) 0) t := by
  obtain ⟨m, hstored, hrun⟩ := build_bitmap_sent hb ha hcap hmap hcap2
  have hface := facing_nextField (s.afterBitmap m (a ++ b)) 1
  obtain ⟨hbase, htxbuf, htxlen⟩ := nextField_keeps (s.afterBitmap m (a ++ b)) 1
  generalize (s.afterBitmap m (a ++ b)).nextField 1 = s1 at *
  have hfields : fieldsAfter s1.pres 1 = presentFields s.pres :=
    (congrArg (fieldsAfter · 1) (pres_of_base hbase)).trans (presentFields_activated s.pres)
  have hsends := sends_fields (presentFields s.pres) (s := s1) (f := 1) (last := s.fidx)
    (State.Building.of_base ⟨rfl, rfl, rfl⟩ hbase) (by rw [htxlen, params_of_base hbase]; exact hcap2) hfields
    (presentFields_activated s.pres ▸ hface)
  rw [params_of_base hbase, catWord_of_base hbase, val_of_base hbase] at hsends
  rcases hsends with ⟨c, u, hc, hcap3, ⟨hlen, hstored3⟩, hbase3, hrun3, hdone, hfidx⟩ | ⟨hover, t, ht, hab⟩
  · rw [params_of_base hbase, htxlen] at hcap3
    rw [htxlen] at hlen
    rw [htxbuf, htxlen] at hstored3
    have hwhole : u.txlen = (a ++ b ++ c).length := hlen.trans List.length_append.symm
    have hlast : seqStep u = .next (donePhase u) := by simp only [seqStep, hdone]
    have hend := donePhase_of_base (s := s.started (activated s.pres) 0) rfl (hbase3.trans hbase)
    rw [hwhole, hfidx] at hend
    refine .inl ⟨c, u.txbuf, hc, ?_, hstored.append (by rwa [Nat.zero_add]), ?_⟩
    · rw [List.length_append]
      exact hcap3
    · exact (hrun _ (hrun3 _ (runsTo_last hlast rfl))).trans (congrArg _ hend)
  · refine .inr ⟨fun c hc => ?_, t, hrun t ht, hab.of_base hbase⟩
    have hfull := hover c hc
    rw [params_of_base hbase, htxlen] at hfull
    rw [List.length_append]
    exact hfull

end Mti

end Phases

/-! ### The wire message (R286) -/

theorem wire_eq_some {w : Bytes} : s.wire = some w ↔
    ∃ a b c, buildMti (s.catWord 0) s.strict s.mtiValid s.mti = some a ∧
      buildBitmap (s.catWord 1) (activated s.pres) = some b ∧
      buildFields s.params.binLenMode s.catWord s.val (presentFields s.pres) = some c ∧ a ++ b ++ c = w := by
  simp only [State.wire, Option.bind_eq_some_iff, Option.map_eq_some_iff]
  constructor
  · rintro ⟨a, ha, b, hb, c, hc, h⟩
    exact ⟨a, b, c, ha, hb, hc, h⟩
  · rintro ⟨a, b, c, ha, hb, hc, h⟩
    exact ⟨a, ha, b, hb, c, hc, h⟩

/-- A BUILD whose wire message fits. -/
theorem build_of_wire (hb : s.bound = true) {w : Bytes} (hw : s.wire = some w) (hcap : w.length ≤ s.params.bufCap) :
    ∃ m, exec .build s = .next { s.okEnd with
        pres := activated s.pres, cursor := 0, txbuf := m, txlen := w.length
        fidx := (presentFields s.pres).getLastD s.fidx, resval := BitVec.ofNat 32 w.length } ∧
      Stored s.txbuf m 0 w := by
  obtain ⟨a, b, c, ha, hmap, hc, rfl⟩ := wire_eq_some.1 hw
  rw [List.length_append, List.length_append] at hcap
  rcases build_fields hb ha (by omega) hmap (by rw [List.length_append]; omega) with
    ⟨c', m, hc', -, hstored, hexec⟩ | ⟨hover, -⟩
  · cases hc.symm.trans hc'
    exact ⟨m, hexec, hstored⟩
  · have := hover c hc
    rw [List.length_append, List.length_append] at this
    omega

/-- A BUILD that has no wire message, or too long a one, once the MTI has been sent. -/
theorem build_of_no_wire (hb : s.bound = true) (hwire : ∀ v, s.wire = some v → s.params.bufCap < v.length)
    (ha : buildMti (s.catWord 0) s.strict s.mtiValid s.mti = some a) (hcap : a.length ≤ s.params.bufCap) :
    ∃ t, exec .build s = .next t ∧ Aborted (s.started (activated s.pres) 0) t ∧
      (buildBitmap (s.catWord 1) (activated s.pres) = none →
        ∃ e, buildWordFailure (s.catWord 1) = some e ∧ e.ReportedIn 1 0 t) ∧
      ∀ b, buildBitmap (s.catWord 1) (activated s.pres) = some b → s.params.bufCap < a.length + b.length →
        t.kind = .buildError ∧ t.cause = .beTxOvf ∧ t.ekey = none := by
  cases hmap : buildBitmap (s.catWord 1) (activated s.pres) with
  | none =>
    obtain ⟨e, he, t, hexec, hab, hrep⟩ := build_bitmap_fails hb ha hcap hmap
    exact ⟨t, hexec, hab, fun _ => ⟨e, he, hrep⟩, nofun⟩
  | some b =>
    by_cases hcap2 : (a ++ b).length ≤ s.params.bufCap
    · rcases build_fields hb ha hcap hmap hcap2 with ⟨c, -, hc, hfits, -⟩ | ⟨-, t, hexec, hab⟩
      · exact absurd (hwire _ (wire_eq_some.2 ⟨a, b, c, ha, hmap, hc, rfl⟩)) (Nat.not_lt.2 hfits)
      · refine ⟨t, hexec, hab, nofun, fun b' hb' hover => ?_⟩
        cases hb'
        exact absurd (List.length_append ▸ hcap2) (Nat.not_le.2 hover)
    · have hover : s.params.bufCap < a.length + b.length := List.length_append ▸ Nat.lt_of_not_le hcap2
      obtain ⟨t, hexec, hab, hfull⟩ := build_bitmap_full hb ha hcap hmap hover
      exact ⟨t, hexec, hab, nofun, fun _ _ _ => hfull⟩

/-- Settles O56: the phases in their order; each sends the bytes of the reference function or ends the command. -/
theorem buildOutcome : Obligations.BuildOutcome := by
  refine fun s hb => ⟨fun v hv hcap => build_of_wire hb hv hcap, fun hwire => ?_⟩
  cases ha : buildMti (s.catWord 0) s.strict s.mtiValid s.mti with
  | none =>
    obtain ⟨e, he, t, hexec, hab, hrep⟩ := build_mti_fails hb ha
    obtain ⟨hk, hpres, -, ht⟩ := hab.outcome
    exact ⟨t, hexec, hk, .inl hpres, ht, fun _ => ⟨hpres, e, he, hrep⟩, nofun⟩
  | some a =>
  by_cases hcap : a.length ≤ s.params.bufCap
  case neg =>
    obtain ⟨t, hexec, hab, hfull⟩ := build_mti_full hb ha (Nat.lt_of_not_le hcap)
    obtain ⟨hk, hpres, hinfo, ht⟩ := hab.outcome
    refine ⟨t, hexec, hk, .inl hpres, ht, nofun, fun a' ha' => ?_⟩
    cases ha'
    exact ⟨hinfo, fun _ => ⟨hpres, hfull⟩, fun h => absurd h hcap⟩
  obtain ⟨t, hexec, hab, hfails, hfull⟩ := build_of_no_wire hb hwire ha hcap
  obtain ⟨hk, hpres, hinfo, ht⟩ := hab.outcome
  refine ⟨t, hexec, hk, .inr hpres, ht, nofun, fun a' ha' => ?_⟩
  cases ha'
  exact ⟨hinfo, fun h => absurd hcap (Nat.not_le.2 h), fun _ => ⟨hpres, hfails, hfull⟩⟩

end Sys2Proof.Machine

end

section
/-! What the reference parse makes of the bytes that the reference functions of the build path give (R287): the length
and the bytes of a value are found again, and the value is that of the table. -/

namespace Sys2Proof.Machine

variable {d : Word} {mode : Config.BinLenMode} {t a b w rest : Bytes} {n : Nat} {x : Value}

theorem splitBytes_append (a rest : Bytes) : splitBytes a.length (a ++ rest) = some (a, rest) :=
  splitBytes_eq_some.2 ⟨rfl, rfl⟩

/-! ### The length (R224 to R228, R274 to R276) -/

/-- The text of a length is numeric and spells it. -/
theorem decToNat_lengthText {k : Nat} (hk : 1 ≤ k) (h : n < 10 ^ k) : decToNat (lengthText k n) = some n := by
  have hne : lengthText k n ≠ [] := List.ne_nil_of_length_pos (by rw [lengthText_length hk h]; exact hk)
  exact decToNat_eq_some.2 ⟨(isNum_iff _).2 ⟨hne, lengthText_digits k n⟩, digitsVal_lengthText k n⟩

/-- The zero digit in front of an odd text changes nothing. -/
theorem decToNat_evenText {t : Bytes} (h : decToNat t = some n) : decToNat (evenText t) = some n := by
  obtain ⟨hnum, hval⟩ := decToNat_eq_some.1 h
  obtain ⟨hne, hdigits⟩ := (isNum_iff t).1 hnum
  refine decToNat_eq_some.2 ⟨(isNum_iff _).2 ⟨?_, evenText_digits t hdigits⟩, (digitsVal_evenText t).trans hval⟩
  unfold evenText
  split
  · exact List.cons_ne_nil _ _
  · exact hne

theorem prefixDigits_pos : ∀ {disc : Disc}, disc ≠ .fixed → 1 ≤ prefixDigits disc := by
  intro disc h
  cases disc with
  | fixed => exact absurd rfl h
  | _ => decide

/-- The bytes of a prefix have its width and stand for the length. -/
theorem prefixValue_of_buildPrefix (hvar : discOfCode (descLdisc d) ≠ .fixed) (h : buildPrefix mode d n = some a) :
    a.length = prefixWidth d ∧ prefixValue mode d a = some n := by
  have hpos := prefixDigits_pos hvar
  simp only [buildPrefix, if_neg hvar] at h
  unfold prefixWidth prefixValue
  generalize encOfCode (descLenc d) = lenc, prefixDigits (discOfCode (descLdisc d)) = k at h hpos ⊢
  split at h
  · obtain ⟨hlen, he⟩ := Option.ite_none_right_eq_some.1 h
    cases he
    exact ⟨lengthText_length hpos hlen, decToNat_lengthText hpos hlen⟩
  · obtain ⟨hlen, hv⟩ := Option.ite_none_right_eq_some.1 h
    obtain ⟨v, hv', hwidth, hback⟩ := bcdEncode_digits _ (lengthText_digits k n)
    cases hv.symm.trans hv'
    rw [lengthText_length hpos hlen] at hwidth
    exact ⟨hwidth, by simp only [hback, decToNat_evenText (decToNat_lengthText hpos hlen)]⟩
  · obtain ⟨hlen, he⟩ := Option.ite_none_right_eq_some.1 h
    cases he
    exact ⟨beBytes_length k n, congrArg some ((beNat_beBytes k n).trans (Nat.mod_eq_of_lt hlen))⟩
  · cases h
  · cases h

theorem fieldLength_eq_some : fieldLength d t = some n ↔ measureText d t = some n ∧
    if discOfCode (descLdisc d) = .fixed then n = descEffmax d else n ≤ descEffmax d := by
  rw [fieldLength, Option.filter_eq_some_iff]
  split <;> simp

/-- The length of a text is read back. -/
theorem parseLength_of_buildPrefix (hlen : fieldLength d t = some n) (h : buildPrefix mode d n = some a) :
    parseLength mode d (a ++ rest) = some (n, rest) := by
  obtain ⟨-, hmax⟩ := fieldLength_eq_some.1 hlen
  unfold parseLength
  by_cases hfixed : discOfCode (descLdisc d) = .fixed
  · have ha : buildPrefix mode d n = some [] := if_pos hfixed
    cases h.symm.trans ha
    rw [if_pos hfixed] at hmax ⊢
    rw [hmax, List.nil_append]
  · rw [if_neg hfixed] at hmax ⊢
    obtain ⟨hwidth, hval⟩ := prefixValue_of_buildPrefix hfixed h
    rw [← hwidth, splitBytes_append, Option.bind_some, hval]
    simp [hmax]

/-! ### The value (R234 to R238, R280 to R282) -/

/-- A packed value is as wide as its length says. -/
theorem packValue_length (hm : measureText d t = some n) (h : packValue d t = some b) :
    b.length = valueWidth d n := by
  rw [measureText_eq_some] at hm
  unfold packValue at h
  unfold valueWidth
  generalize descEnc d = denc at hm h ⊢
  split at h
  · cases h
    exact hm
  · rw [(bcdDecode_of_bcdEncode h).2]
    exact congrArg ceil2 hm
  · have hhex := hexEncode_length b
    rw [hexEncode_of_hexDecode h, upperHex, List.length_map] at hhex
    have hm' : t.length = 2 * n := hm
    have : b.length = n := by omega
    exact this
  · cases h

/-- An empty value has no bytes (R229). -/
theorem packValue_empty (hm : measureText d t = some 0) (h : packValue d t = some b) : b = [] := by
  have hlen := packValue_length hm h
  unfold valueWidth ceil2 at hlen
  rw [ite_self] at hlen
  exact List.eq_nil_of_length_eq_zero hlen

/-- The table of R287 is what the value stage makes of the packed value, for a descriptor that passes the check. -/
theorem valueOfBytes_of_packValue (hd : checkWord d = none) (hm : measureText d t = some n) (h0 : n ≠ 0)
    (h : packValue d t = some b) : valueOfBytes d b = readBack d t := by
  obtain ⟨e, c, he, hc, htext, hbin, -⟩ := legal_of_checkWord hd
  have hne : measureText d t ≠ some 0 := by simpa [hm] using h0
  unfold packValue at h
  unfold valueOfBytes readBack
  rw [if_neg hne]
  change descEnc d = some e at he
  change descClass d = some c at hc
  rw [he] at h
  rw [he, hc]
  cases e with
  | ascii =>
    cases h
    cases c <;> rfl
  | bcd =>
    obtain ⟨hback, -⟩ := bcdDecode_of_bcdEncode h
    cases c with
    | clsN => exact congrArg (fun u => (decToNat u).map Value.int) hback
    | clsZ => exact congrArg (fun u => some (Value.text (trackDecode u))) hback
    | clsB => exact absurd rfl (hbin rfl)
    | _ => cases htext rfl
  | bin =>
    have hback := hexEncode_of_hexDecode h
    cases c with
    | clsN | clsZ | clsB => exact congrArg (fun u => some (Value.text u)) hback
    | _ => cases htext rfl

/-! ### A field (R223, R263) -/

theorem buildField_eq_some : buildField mode d x = some w ↔ descV d = true ∧
    ∃ t n a b, fieldText d x = some t ∧ fieldLength d t = some n ∧ buildPrefix mode d n = some a ∧
      packValue d t = some b ∧ a ++ b = w := by
  unfold buildField
  split
  · next hv =>
    simp only [Option.bind_eq_some_iff, Option.map_eq_some_iff, hv, true_and]
    constructor
    · rintro ⟨t, ht, n, hn, a, ha, b, hb, h⟩
      exact ⟨t, n, a, b, ht, hn, ha, hb, h⟩
    · rintro ⟨t, n, a, b, ht, hn, ha, hb, h⟩
      exact ⟨t, ht, n, hn, a, ha, b, hb, h⟩
  · next hv => exact iff_of_false nofun fun h => hv h.1

/-- A field of a BUILD is parsed as the table says. -/
theorem parseField_of_buildField (hd : descV d = true → checkWord d = none) (h : buildField mode d x = some w)
    (ht : fieldText d x = some t) :
    parseField mode d (w ++ rest) = (readBack d t).map fun y => (y, rest) := by
  obtain ⟨hv, t', n, a, b, ht', hlen, ha, hb, rfl⟩ := buildField_eq_some.1 h
  cases ht.symm.trans ht'
  obtain ⟨hm, -⟩ := fieldLength_eq_some.1 hlen
  rw [parseField, if_pos hv, List.append_assoc, parseLength_of_buildPrefix hlen ha, Option.bind_some]
  by_cases h0 : n = 0
  · subst h0
    rw [if_pos rfl, packValue_empty hm hb, readBack, if_pos hm]
    rfl
  · rw [if_neg h0, ← packValue_length hm hb, splitBytes_append, Option.bind_some,
      valueOfBytes_of_packValue (hd hv) hm h0 hb]

/-! ### The fields -/

variable {word : Nat → Word} {val : Nat → Value} {c : Bytes}

/-- The formatted text of a field that is sent. -/
def sentText (word : Nat → Word) (val : Nat → Value) (f : Nat) : Bytes := (fieldText (word f) (val f)).getD []

theorem buildFields_cons {f : Nat} {fs : List Nat} : buildFields mode word val (f :: fs) = some c ↔
    ∃ a b, buildField mode (word f) (val f) = some a ∧ buildFields mode word val fs = some b ∧ a ++ b = c := by
  simp only [buildFields, Option.bind_eq_some_iff, Option.map_eq_some_iff]
  constructor
  · rintro ⟨a, ha, b, hb, h⟩
    exact ⟨a, b, ha, hb, h⟩
  · rintro ⟨a, b, ha, hb, h⟩
    exact ⟨a, ha, b, hb, h⟩

theorem buildFields_append {gs : List Nat} : ∀ {fs : List Nat} {c : Bytes},
    buildFields mode word val (fs ++ gs) = some c →
      ∃ a b, buildFields mode word val fs = some a ∧ buildFields mode word val gs = some b ∧ a ++ b = c
  | [], c, h => ⟨[], c, rfl, h, rfl⟩
  | f :: fs, c, h => by
    obtain ⟨a, b, ha, hb, rfl⟩ := buildFields_cons.1 h
    obtain ⟨a', b', ha', hb', rfl⟩ := buildFields_append hb
    exact ⟨a ++ a', b', buildFields_cons.2 ⟨a, a', ha, ha', rfl⟩, hb', List.append_assoc ..⟩

theorem fieldText_of_buildField {f : Nat} (h : buildField mode (word f) (val f) = some w) :
    fieldText (word f) (val f) = some (sentText word val f) := by
  obtain ⟨-, t, -, -, -, ht, -⟩ := buildField_eq_some.1 h
  rw [sentText, ht, Option.getD_some]

/-- Every field of a BUILD has a text. -/
theorem fieldText_of_buildFields : ∀ {fs : List Nat} {c : Bytes}, buildFields mode word val fs = some c →
    ∀ f ∈ fs, fieldText (word f) (val f) = some (sentText word val f)
  | [], _, _ => nofun
  | g :: fs, c, h => by
    obtain ⟨a, b, ha, hb, -⟩ := buildFields_cons.1 h
    rw [List.forall_mem_cons]
    exact ⟨fieldText_of_buildField ha, fieldText_of_buildFields hb⟩

/-- Fields whose texts all read back are parsed, each slot as the table says. -/
theorem parseFields_of_buildFields (hd : ∀ f, f ≤ 128 → descV (word f) = true → checkWord (word f) = none) :
    ∀ {fs : List Nat} {c : Bytes}, (∀ f ∈ fs, f ≤ 128) → fs.Nodup → buildFields mode word val fs = some c →
    (∀ f ∈ fs, ∃ y, readBack (word f) (sentText word val f) = some y) →
    ∃ vs, (∀ rest, parseFields mode word fs (c ++ rest) = some (vs, rest)) ∧
      ∀ f, (f ∈ fs → readBack (word f) (sentText word val f) = some (sparseGet .absent vs f)) ∧
        (f ∉ fs → sparseGet .absent vs f = .absent)
  | [], _, _, _, h, _ => by
    cases h
    exact ⟨[], fun _ => rfl, fun f => ⟨nofun, fun _ => rfl⟩⟩
  | g :: fs, c, hle, hnd, h, hback => by
    obtain ⟨a, b, ha, hb, rfl⟩ := buildFields_cons.1 h
    rw [List.forall_mem_cons] at hle hback
    rw [List.nodup_cons] at hnd
    obtain ⟨y, hy⟩ := hback.1
    obtain ⟨vs, hparse, hslots⟩ := parseFields_of_buildFields hd hle.2 hnd.2 hb hback.2
    have hslot : ∀ f, sparseGet .absent (if y = .absent then vs else (g, y) :: vs) f =
        if g = f then y else sparseGet .absent vs f := by
      intro f
      by_cases hyabs : y = .absent
      · rw [if_pos hyabs]
        split
        · next hf => rw [← hf, (hslots g).2 hnd.1, hyabs]
        · rfl
      · rw [if_neg hyabs, sparseGet]
    refine ⟨if y = .absent then vs else (g, y) :: vs, fun rest => ?_, fun f => ?_⟩
    · rw [parseFields, List.append_assoc, parseField_of_buildField (hd g hle.1) ha (fieldText_of_buildField ha), hy,
        Option.map_some, Option.bind_some, hparse, Option.map_some]
    · rw [hslot]
      by_cases hf : g = f
      · rw [if_pos hf, ← hf]
        exact ⟨fun _ => hy, fun hn => absurd (List.mem_cons_self) hn⟩
      · rw [if_neg hf]
        refine ⟨fun hmem => (hslots f).1 ((List.mem_cons.1 hmem).resolve_left (Ne.symm hf)), fun hn => (hslots f).2 ?_⟩
        exact fun hmem => hn (List.mem_cons_of_mem g hmem)

/-! ### The header (R201, R207, R181, R182) -/

theorem parseMti_of_buildMti {strict valid : Bool} {m : Mti} (h : buildMti d strict valid m = some a) :
    parseMti d strict (a ++ rest) = some (mtiBytes m, rest) := by
  obtain ⟨hv, -, hcheck, ⟨henc, hbcd⟩ | ⟨henc, rfl⟩⟩ := buildMti_eq_some.1 h
  · obtain ⟨v, hv', hlen, hback⟩ := bcdEncode_mti hcheck
    cases hbcd.symm.trans hv'
    exact parseMti_eq_some.2 ⟨hv, hcheck, .inl ⟨henc, a, hlen ▸ splitBytes_append a rest, hback⟩⟩
  · exact parseMti_eq_some.2 ⟨hv, hcheck, .inr ⟨henc, splitBytes_append (mtiBytes m) rest⟩⟩

theorem parseWord_of_buildWord {p : BitmapWord} (h : buildWord d p = some a) :
    parseWord d (a ++ rest) = some (p, rest) := by
  obtain ⟨hv, ⟨henc, rfl⟩ | ⟨henc, rfl⟩⟩ := buildWord_eq_some.1 h
  · have hsplit := splitBytes_append (bytesOfWord p) rest
    rw [bytesOfWord_length] at hsplit
    exact parseWord_eq_some.2 ⟨hv, .inl ⟨henc, _, hsplit, wordOfBytes_bytesOfWord p⟩⟩
  · have hsplit := splitBytes_append (hexEncode (bytesOfWord p)) rest
    rw [hexEncode_length, bytesOfWord_length] at hsplit
    exact parseWord_eq_some.2 ⟨hv, .inr ⟨henc, _, _, hsplit, hexDecode_hexEncode _, wordOfBytes_bytesOfWord p⟩⟩

/-- The bitmap of a map in which PRES[1] stands for the secondary word is read as the map. -/
theorem parseBitmap_of_buildBitmap {p : BitVec 128} (hsec : presBit p 1 = false → secondaryWord p = 0)
    (h : buildBitmap d p = some b) : parseBitmap d (b ++ rest) = some (p, rest) := by
  have hbit : (primaryWord p).getLsbD 63 = presBit p 1 := getLsbD_primaryWord p (Nat.le_refl 1) (by decide)
  cases hp : presBit p 1 with
  | false =>
    rw [buildBitmap_one hp] at h
    rw [parseBitmap, parseWord_of_buildWord h, Option.bind_some, hbit, hp, ← hsec hp,
      presOfWords_primaryWord_secondaryWord]
    rfl
  | true =>
    obtain ⟨v1, v2, hv1, hv2, rfl⟩ := (buildBitmap_two hp).1 h
    rw [parseBitmap, List.append_assoc, parseWord_of_buildWord hv1, Option.bind_some, hbit, hp, if_pos rfl,
      parseWord_of_buildWord hv2, Option.map_some, presOfWords_primaryWord_secondaryWord]

end Sys2Proof.Machine

end

section
/-! DECODE of what BUILD sent (O57): the header comes back, and the fields are stored one after another, up to the first
numeric field whose text is not numeric. -/

namespace Sys2Proof.Machine

variable {s t u : State} {bs v mid rest : Bytes} {n f : Nat}

/-! ### A value that is not numeric (R234, R236) -/

/-- A DECODE from `s` has ended in `u` with PE_VALUE at field `f`; the header it has stored is as it was. -/
structure ValueRefused (s : State) (f : Nat) (u : State) : Prop where
  kind : u.kind = .parseError
  cause : u.cause = .peValue
  ekey : u.ekey = some f
  mtiValid : u.mtiValid = s.mtiValid
  mti : u.mti = s.mti
  pres : u.pres = s.pres

theorem valueRefused_valueDigits {x : Bytes} (h : decToNat x = none) : ValueRefused s s.fidx (valueDigits x s) := by
  rw [valueDigits, h]
  exact ⟨rfl, rfl, rfl, rfl, rfl, rfl⟩

/-- For a descriptor that passes the check, bytes stand for no value only where digits are wanted and are not there. -/
theorem valueOperation_of_valueOfBytes_none {d : Word} (hd : checkWord d = none) (h : s.Left bs)
    (hs : splitBytes (valueWidth d s.len) bs = some (v, rest)) (hv : valueOfBytes d v = none) :
    ∃ x, decToNat x = none ∧ valueOperation (descEnc d) (descClass d) s = valueDigits x (s.leaving rest) := by
  obtain ⟨e, c, he, hc, htext, hbin, -⟩ := legal_of_checkWord hd
  change descEnc d = some e at he
  change descClass d = some c at hc
  obtain ⟨htake, -⟩ := h.take hs
  unfold valueWidth at htake
  unfold valueOfBytes at hv
  rw [he] at htake
  rw [he, hc] at hv ⊢
  cases c with
  | clsN =>
    cases e with
    | ascii =>
      simp only [Option.some.injEq, reduceCtorEq, if_false] at htake
      exact ⟨v, Option.map_eq_none_iff.1 hv, by simp only [valueOperation, valueAsciiNumber, htake, Res.andThen_val]⟩
    | bcd =>
      simp only [if_true] at htake
      exact ⟨_, Option.map_eq_none_iff.1 hv, by simp only [valueOperation, valueBcdNumber, htake, Res.andThen_val]⟩
    | bin => cases hv
  | clsB =>
    cases e with
    | bcd => exact absurd rfl (hbin rfl)
    | _ => cases hv
  | clsZ => cases e <;> cases hv
  | _ =>
    obtain rfl := htext rfl
    cases hv

/-- The value stage of such a field ends the DECODE. -/
theorem runsTo_refused_value (hp : s.phase = .field) (hst : s.stage = some .dval) (hv : descV s.desc = true)
    (hd : checkWord s.desc = none) (h : s.Left bs) (hs : splitBytes (valueWidth s.desc s.len) bs = some (v, rest))
    (hnone : valueOfBytes s.desc v = none) : ∃ u, s.RunsTo u ∧ ValueRefused s s.fidx u := by
  obtain ⟨x, hx, hop⟩ := valueOperation_of_valueOfBytes_none hd h hs hnone
  have hstep := (seqStep_fieldStage hp hst).trans (fieldStage_dval hv)
  have hend := valueRefused_valueDigits (s := s.leaving rest) hx
  rw [hop] at hstep
  refine ⟨_, runsTo_last hstep ?_, { hend with }⟩
  rw [valueDigits, hx]
  rfl

/-- A field whose length is known and whose value is not numeric ends the DECODE. -/
theorem runsTo_refused_field (hdec : s.Decoding) (hp : s.phase = .field) (hst : s.stage = none)
    (hv : descV (s.catWord s.fidx) = true) (hd : checkWord (s.catWord s.fidx) = none) (h : s.Left bs)
    (hlen : parseLength s.params.binLenMode (s.catWord s.fidx) bs = some (n, mid)) (h0 : n ≠ 0)
    (hs : splitBytes (valueWidth (s.catWord s.fidx) n) mid = some (v, rest))
    (hnone : valueOfBytes (s.catWord s.fidx) v = none) : ∃ u, s.RunsTo u ∧ ValueRefused s s.fidx u := by
  have hfetch := seqStep_fetch hdec.running hp hst hv
  obtain ⟨hop, hmax, hmid⟩ := lengthOperation_of_parseLength
    (s := { s with desc := s.catWord s.fidx, stage := some .dlen }) h hlen
  have hstep := (seqStep_fieldStage (s := { s with desc := s.catWord s.fidx, stage := some .dlen }) hp rfl).trans
    (fieldStage_dlen hv)
  rw [hop, lengthKnown_value hmax h0] at hstep
  obtain ⟨u, hrun, hend⟩ := runsTo_refused_value
    (s := { s.leaving mid with desc := s.catWord s.fidx, len := n, stage := some .dval }) hp rfl hv hd hmid hs hnone
  refine ⟨u, hdec.runsTo_step hfetch hdec.busy ?_, { hend with }⟩
  exact State.Decoding.runsTo_step ⟨hdec.running, hdec.busy, hdec.reslen⟩ hstep hdec.busy hrun

/-- A field of a BUILD whose text does not read back ends the DECODE. -/
theorem runsTo_refused_of_buildField {w t : Bytes} {x : Value} (hdec : s.Decoding) (hp : s.phase = .field)
    (hst : s.stage = none) (hd : descV (s.catWord s.fidx) = true → checkWord (s.catWord s.fidx) = none)
    (h : s.Left (w ++ rest)) (hw : buildField s.params.binLenMode (s.catWord s.fidx) x = some w)
    (ht : fieldText (s.catWord s.fidx) x = some t) (hback : readBack (s.catWord s.fidx) t = none) :
    ∃ u, s.RunsTo u ∧ ValueRefused s s.fidx u := by
  obtain ⟨hv, t', n, a, b, ht', hlen, ha, hb, rfl⟩ := buildField_eq_some.1 hw
  cases ht.symm.trans ht'
  obtain ⟨hm, -⟩ := fieldLength_eq_some.1 hlen
  have h0 : n ≠ 0 := by
    rintro rfl
    rw [readBack, if_pos hm] at hback
    cases hback
  rw [List.append_assoc] at h
  exact runsTo_refused_field hdec hp hst hv (hd hv) h (parseLength_of_buildPrefix hlen ha) h0
    (packValue_length hm hb ▸ splitBytes_append b rest) ((valueOfBytes_of_packValue (hd hv) hm h0 hb).trans hback)

/-! ### The fields before it -/

/-- The fields `fs` that parse are stored, and the field `g` behind them is begun. -/
theorem nextField_reaches {g : Nat} {gs : List Nat} (fs : List Nat) :
    ∀ {s : State} {f : Nat} {bs : Bytes} {vs : List (Nat × Value)}, s.Decoding → s.Left bs →
      fieldsAfter s.pres f = fs ++ g :: gs → parseFields s.params.binLenMode s.catWord fs bs = some (vs, mid) →
      ∃ m d k, { s.leaving mid with
          vals := m, phase := .field, fidx := g, stage := none, desc := d, len := k : State }.Left mid ∧
        ∀ t, { s.leaving mid with
          vals := m, phase := .field, fidx := g, stage := none, desc := d, len := k : State }.RunsTo t →
            (s.nextField f).RunsTo t := by
  induction fs with
  | nil =>
    intro s f bs vs _ h hfs hparse
    cases hparse
    have hnext : s.nextField f = { s with phase := .field, fidx := g, stage := none } := by
      rw [State.nextField, nextPresent_eq_head?, hfs]
      rfl
    rw [hnext, h.leaving_eq]
    exact ⟨s.vals, s.desc, s.len, h, fun _ => id⟩
  | cons j fs ih =>
    intro s f bs vs hdec h hfs hparse
    obtain ⟨-, hjs⟩ := fieldsAfter_of_cons hfs
    have hnext : s.nextField f = { s with phase := .field, fidx := j, stage := none } := by
      rw [State.nextField, nextPresent_eq_head?, hfs]
      rfl
    obtain ⟨⟨x, after⟩, hx, hparse⟩ := Option.bind_eq_some_iff.1 hparse
    obtain ⟨⟨ws, last⟩, hws, he⟩ := Option.map_eq_some_iff.1 hparse
    cases he
    obtain ⟨hleft, d, st, k, hrun⟩ := stores_of_parseField (s := { s with phase := .field, fidx := j, stage := none })
      ⟨hdec.running, hdec.busy, hdec.reslen⟩ rfl rfl h hx
    obtain ⟨m, d', k', hleft', hrun'⟩ := ih (f := j)
      (s := { s.leaving after with
        phase := .field, fidx := j, desc := d, stage := st, len := k, vals := sparseSet Value.absent s.vals j x })
      ⟨hdec.running, hdec.busy, hdec.reslen⟩ hleft hjs hws
    rw [hnext]
    exact ⟨m, d', k', hleft', fun t ht => hrun t (hrun' t ht)⟩

/-! ### The header (R221, R207, R182) -/

/-- The state in which the BITMAP phase of a DECODE ends: the MTI `m` and the map `p` are stored, `rest` is left. -/
def State.headed (s : State) (m : Mti) (p : BitVec 128) (rest : Bytes) : State :=
  { s.begin .decode with
    mti := m, mtiValid := true, pres := p, vals := [], cursor := s.rxlen - rest.length, phase := .bitmap }

/-- A DECODE whose header parses comes to the FIELD phase. -/
theorem exec_decode_of_header {m : Bytes} {p : BitVec 128} (hb : s.bound = true)
    (hmti : parseMti (s.catWord 0) s.strict s.received = some (m, mid))
    (hmap : parseBitmap (s.catWord 1) mid = some (p, rest)) :
    (s.headed (mtiOfBytes m) p rest).Left rest ∧
      ∀ t, ((s.headed (mtiOfBytes m) p rest).nextField 1).RunsTo t → exec .decode s = .next t := by
  obtain ⟨hstep1, hleft1⟩ := mtiDecode_of_parseMti (s := decodeStart (s.begin .decode)) (left_received rfl) hmti
  obtain ⟨hstep2, hleft2⟩ := bitmapDecode_of_parseBitmap
    (s := { ((decodeStart (s.begin .decode)).leaving mid).storeMti m with phase := .bitmap }) hleft1 hmap
  refine ⟨hleft2, fun t ht => exec_decode_of_runsTo hb ?_⟩
  refine State.Decoding.runsTo_step ⟨rfl, rfl, rfl⟩ (seqStep_mti rfl rfl hstep1) rfl ?_
  exact State.Decoding.runsTo_step ⟨rfl, rfl, rfl⟩ (seqStep_bitmap rfl rfl hstep2) (seqGoes_nextField _ _).busy ht

/-! ### DECODE of a wire message (R287) -/

/-- The framer `r` has received the bytes `w`, under the catalog, STRICT and the parameters of `s`. -/
structure Receiving (s r : State) (w : Bytes) : Prop where
  bound : r.bound = true
  catWord : r.catWord = s.catWord
  strict : r.strict = s.strict
  params : r.params = s.params
  received : r.received = w

/-- What the table of R287 gives for a field of `s`. -/
def State.readsBack (s : State) (f : Nat) : Option Value := readBack (s.catWord f) (sentText s.catWord s.val f)

theorem checkWord_of_catCheck {f : Nat} (hcheck : catCheck s.catrom s.catsel = none) (hf : f ≤ 128) :
    descV (s.catWord f) = true → checkWord (s.catWord f) = none :=
  catCheck_eq_none_iff.1 hcheck f hf

theorem presentFields_le {p : BitVec 128} : ∀ f ∈ presentFields p, f ≤ 128 := by
  intro f hf
  have := List.mem_range'_1.1 (List.mem_filter.1 hf).1
  omega

theorem presentFields_sorted (p : BitVec 128) : (presentFields p).Pairwise (· < ·) :=
  (List.pairwise_lt_range' 1).filter _

section Receiving

variable {r : State} {w : Bytes} (hr : Receiving s r w) (hw : s.wire = some w)
include hr hw

/-- The header of the message comes back, and its fields are left. -/
theorem header_of_wire : ∃ c, buildFields s.params.binLenMode s.catWord s.val (presentFields s.pres) = some c ∧
    ∃ mid, parseMti (r.catWord 0) r.strict r.received = some (mtiBytes s.mti, mid) ∧
      parseBitmap (r.catWord 1) mid = some (activated s.pres, c) := by
  obtain ⟨a, b, c, ha, hb, hc, rfl⟩ := wire_eq_some.1 hw
  rw [hr.received, hr.catWord, hr.strict, List.append_assoc]
  exact ⟨c, hc, b ++ c, parseMti_of_buildMti ha, parseBitmap_of_buildBitmap secondaryWord_activated hb⟩

variable (hcheck : catCheck s.catrom s.catsel = none)
include hcheck

/-- Every field reads back: the DECODE completes with those values. -/
theorem decode_of_wire (hall : ∀ f ∈ presentFields s.pres, ∃ y, s.readsBack f = some y) :
    ∃ u, exec .decode r = .next u ∧ u.mtiValid = true ∧ u.mti = s.mti ∧ u.pres = activated s.pres ∧ u.kind = .ok ∧
      u.cursor = r.rxlen ∧ ∀ f, (f ∈ presentFields s.pres → s.readsBack f = some (u.val f)) ∧
        (f ∉ presentFields s.pres → u.val f = .absent) := by
  obtain ⟨c, hc, mid, hmti, hmap⟩ := header_of_wire hr hw
  obtain ⟨vs, hparse, hslots⟩ := parseFields_of_buildFields (fun f => checkWord_of_catCheck hcheck)
    presentFields_le (presentFields_sorted s.pres).nodup hc hall
  have hwhole : r.parse = some (⟨mtiOfBytes (mtiBytes s.mti), activated s.pres, vs⟩, []) := by
    have hfields := hparse []
    rw [List.append_nil] at hfields
    rw [State.parse, parseMessage, hmti, Option.bind_some, hmap, Option.bind_some, presentFields_activated, hr.params,
      hr.catWord, hfields]
    rfl
  exact ⟨_, decodeCompletes r _ _ hr.bound hwhole, rfl, rfl, rfl, rfl, rfl, hslots⟩

/-- The first field that does not read back ends the DECODE. -/
theorem decode_of_wire_refused {fs gs : List Nat} {g : Nat} (hpres : presentFields s.pres = fs ++ g :: gs)
    (hall : ∀ f ∈ fs, ∃ y, s.readsBack f = some y) (hnone : s.readsBack g = none) :
    ∃ u, exec .decode r = .next u ∧ u.mtiValid = true ∧ u.mti = s.mti ∧ u.pres = activated s.pres ∧
      u.kind = .parseError ∧ u.cause = .peValue ∧ u.ekey = some g := by
  obtain ⟨c, hc, mid, hmti, hmap⟩ := header_of_wire hr hw
  obtain ⟨hleft, hrun⟩ := exec_decode_of_header hr.bound hmti hmap
  have hle := presentFields_le (p := s.pres)
  have hnd := (presentFields_sorted s.pres).nodup
  rw [hpres] at hc hle hnd
  rw [List.forall_mem_append, List.forall_mem_cons] at hle
  obtain ⟨a, rest, ha, hrest, rfl⟩ := buildFields_append hc
  obtain ⟨b, c, hb, -, rfl⟩ := buildFields_cons.1 hrest
  obtain ⟨vs, hparse, -⟩ := parseFields_of_buildFields (fun f => checkWord_of_catCheck hcheck) hle.1
    (List.nodup_append.1 hnd).1 ha hall
  obtain ⟨m, d, k, hleft', hreach⟩ := nextField_reaches fs (f := 1) (g := g) (gs := gs) (mid := b ++ c) (vs := vs)
    (s := r.headed (mtiOfBytes (mtiBytes s.mti)) (activated s.pres) (a ++ (b ++ c))) ⟨rfl, rfl, rfl⟩ hleft
    ((presentFields_activated s.pres).trans hpres) (by
      have := hparse (b ++ c)
      rw [← hr.params, ← hr.catWord] at this
      exact this)
  obtain ⟨u, hrunU, hkind, hcause, hekey, hvalid, hmtiU, hpresU⟩ := runsTo_refused_of_buildField
    (s := { (r.headed (mtiOfBytes (mtiBytes s.mti)) (activated s.pres) (a ++ (b ++ c))).leaving (b ++ c) with
      vals := m, phase := .field, fidx := g, stage := none, desc := d, len := k })
    ⟨rfl, rfl, rfl⟩ rfl rfl (hr.catWord ▸ checkWord_of_catCheck hcheck hle.2.1) hleft'
    (by rw [← hr.params, ← hr.catWord] at hb; exact hb) (hr.catWord ▸ fieldText_of_buildField hb)
    (hr.catWord ▸ hnone)
  exact ⟨u, hrun _ (hreach _ hrunU), hvalid, hmtiU, hpresU, hkind, hcause, hekey⟩

end Receiving

/-! ### What BUILD sent is what DECODE receives -/

/-- A BUILD that ends OK has sent the wire message of its state. -/
theorem receiving_of_build (hb : s.bound = true) (hexec : exec .build s = .next t) (hok : t.kind = .ok) :
    ∃ w, s.wire = some w ∧ Receiving s { t with rxbuf := t.txbuf, rxlen := t.txlen } w := by
  by_cases hfits : ∃ w, s.wire = some w ∧ w.length ≤ s.params.bufCap
  · obtain ⟨w, hw, hcap⟩ := hfits
    obtain ⟨m, hbuild, hstored⟩ := build_of_wire hb hw hcap
    cases hexec.symm.trans hbuild
    exact ⟨w, hw, hb, rfl, rfl, rfl, hstored.1⟩
  · obtain ⟨t', hbuild, hkind, -⟩ := (buildOutcome s hb).2 fun w hw =>
      Nat.lt_of_not_le fun hcap => hfits ⟨w, hw, hcap⟩
    cases hexec.symm.trans hbuild
    rw [hok] at hkind
    rcases hkind with hkind | hkind <;> cases hkind

/-- In a sorted list, the first element without a property is the only one below which all have it. -/
theorem eq_of_first_of_sorted {p : Nat → Prop} {fs gs : List Nat} {g : Nat} (hsort : (fs ++ g :: gs).Pairwise (· < ·))
    (hfs : ∀ f ∈ fs, p f) (hg : ¬ p g) (hf : f ∈ fs ++ g :: gs) (hnot : ¬ p f)
    (hfirst : ∀ j ∈ fs ++ g :: gs, j < f → p j) : f = g := by
  have hgmem : g ∈ fs ++ g :: gs := List.mem_append_right fs List.mem_cons_self
  rcases List.mem_append.1 hf with hf | hf
  · exact absurd (hfs f hf) hnot
  · rcases List.mem_cons.1 hf with rfl | hf
    · rfl
    · have hlt : g < f := (List.pairwise_cons.1 (List.pairwise_append.1 hsort).2.1).1 f hf
      exact absurd (hfirst g hgmem hlt) hg

/-- Settles O57: the header of the message comes back, and its fields are stored one after another up to the first whose
text does not read back. -/
theorem buildThenDecode : Obligations.BuildThenDecode := by
  intro s t hcheck hb hexec hok
  obtain ⟨w, hw, hr⟩ := receiving_of_build hb hexec hok
  obtain ⟨_, _, c, -, -, hc, -⟩ := wire_eq_some.1 hw
  have htext := fieldText_of_buildFields hc
  cases hfind : (presentFields s.pres).find? fun f => (s.readsBack f).isNone with
  | none =>
    have hall : ∀ f ∈ presentFields s.pres, ∃ y, s.readsBack f = some y := fun f hf =>
      Option.ne_none_iff_exists'.1 fun hnone => List.find?_eq_none.1 hfind f hf (Option.isNone_iff_eq_none.2 hnone)
    obtain ⟨u, hdec, hvalid, hmti, hpres, hkind, hcursor, hslots⟩ := decode_of_wire hr hw hcheck hall
    refine ⟨u, hdec, hvalid, hmti, hpres, _, htext, fun _ => ⟨hkind, hcursor, hslots⟩, fun f hf hnone _ => ?_⟩
    obtain ⟨y, hy⟩ := hall f hf
    cases hy.symm.trans hnone
  | some g =>
    obtain ⟨hg, fs, gs, hsplit, hfs⟩ := List.find?_eq_some_iff_append.1 hfind
    have hnone : s.readsBack g = none := Option.isNone_iff_eq_none.1 hg
    have hback : ∀ f ∈ fs, s.readsBack f ≠ none := fun f hf hf' => by
      have := hfs f hf
      rw [hf'] at this
      cases this
    obtain ⟨u, hdec, hvalid, hmti, hpres, hkind, hcause, hekey⟩ := decode_of_wire_refused hr hw hcheck hsplit
      (fun f hf => Option.ne_none_iff_exists'.1 (hback f hf)) hnone
    refine ⟨u, hdec, hvalid, hmti, hpres, _, htext, fun hall => ?_, fun f hf hf' hfirst => ⟨hkind, hcause, ?_⟩⟩
    · obtain ⟨y, hy⟩ := hall g (hsplit ▸ List.mem_append_right fs List.mem_cons_self)
      cases hy.symm.trans hnone
    · have hsort := presentFields_sorted s.pres
      rw [hsplit] at hf hfirst hsort
      exact eq_of_first_of_sorted (p := fun f => s.readsBack f ≠ none) hsort hback (absurd hnone) hf (absurd hf')
        hfirst ▸ hekey

end Sys2Proof.Machine

end

section
/-! The command frame (R300) and INIT (R301): the refusals in the order of the checks (O15), a catalog that passes (O16)
and one that does not (O17). -/

namespace Sys2Proof.Machine

variable {s : State} {key : BitVec 8} {arg : BitVec 16}

/-! ### The checks of the command frame (R300, checks 2 to 4) -/

theorem presKeyOk_eq_false (h : key.toNat = 0 ∨ 128 < key.toNat) : presKeyOk key = false := by
  rw [Bool.eq_false_iff, Ne, presKeyOk_iff]
  omega

theorem fieldKeyOk_eq_false (h : key.toNat < 2 ∨ 128 < key.toNat) : fieldKeyOk key = false := by
  rw [Bool.eq_false_iff, Ne, fieldKeyOk_iff]
  omega

theorem catKeyOk_eq_false (h : 128 < key.toNat) : catKeyOk key = false := by
  rw [Bool.eq_false_iff, Ne, catKeyOk_iff]
  omega

theorem bitArgOk_eq_false (h : 1 < arg.toNat) : bitArgOk arg = false := by
  rw [Bool.eq_false_iff, Ne, bitArgOk_iff]
  omega

/-- A command of the sequencer raises before it starts (R300, check 2). -/
theorem seqCommand_unbound (h : s.bound = false) (r : Running) :
    seqCommand r s = .next ((s.begin r).raise .specError .seUnbound none) := by
  have hcheck : frameCheck true true true s = some (.specError, .seUnbound) := by simp [frameCheck, h]
  rw [seqCommand, hcheck]

theorem frame_unbound_outcome {ko bo : Bool} (rule : State → State) (hb : s.bound = false) :
    (.next (frame true ko bo s rule) : Out) = .next { s.errEnd .specError .seUnbound none with errinfo := 0 } := by
  rw [frame_unbound rule hb]

/-- A key out of range is refused before the bit value is looked at. -/
theorem frame_key_outcome {ko bo : Bool} (rule : State → State) (hb : s.bound = true) (hk : ko = false) :
    (.next (frame true ko bo s rule) : Out) = .next { s.errEnd .reject .rjKeyRange none with errinfo := 0 } := by
  rw [hk, frame_key rule fun _ => hb]

theorem frame_bit_outcome {ko bo : Bool} (rule : State → State) (hb : s.bound = true) (hk : ko = true)
    (ha : bo = false) :
    (.next (frame true ko bo s rule) : Out) = .next { s.errEnd .reject .rjBitValue none with errinfo := 0 } := by
  rw [hk, ha, frame_bit rule fun _ => hb]

/-- Settles O15: one law of the frame for each check, whatever the command's own rule is. -/
theorem frameRefusals : Obligations.FrameRefusals := by
  intro s key arg
  simp only [List.forall_mem_cons, List.not_mem_nil, false_implies, implies_true, and_true]
  refine ⟨fun hb => ?unbound, fun hb => seqCommand_unbound hb .build, fun hb hk => ?presKey, fun hb hk => ?fieldKey,
    fun hb hk => ?catKey, fun hb ha => frame_bit_outcome _ hb rfl (bitArgOk_eq_false ha),
    fun hb h1 h128 ha => frame_bit_outcome _ hb ((presKeyOk_iff key).2 ⟨h1, h128⟩) (bitArgOk_eq_false ha)⟩
  case unbound =>
    have hframe (ko bo : Bool) (rule : State → State) := frame_unbound_outcome (ko := ko) (bo := bo) rule hb
    exact ⟨seqCommand_unbound hb .decode, hframe .., hframe .., hframe .., hframe .., hframe .., hframe .., hframe ..,
      hframe .., hframe .., hframe .., hframe .., hframe .., hframe .., hframe .., hframe ..⟩
  case presKey =>
    have hko := presKeyOk_eq_false hk
    exact ⟨frame_key_outcome _ hb hko, frame_key_outcome _ hb hko⟩
  case fieldKey =>
    have hko := fieldKeyOk_eq_false hk
    exact ⟨frame_key_outcome _ hb hko, frame_key_outcome _ hb hko, frame_key_outcome _ hb hko⟩
  case catKey =>
    have hframe (rule : State → State) := frame_key_outcome (bo := true) rule hb (catKeyOk_eq_false hk)
    exact ⟨hframe _, hframe _, hframe _, hframe _, hframe _, hframe _⟩

/-! ### INIT (R301) -/

/-- INIT needs no binding and has no operand that its frame checks. -/
theorem exec_init (cat : BitVec 2) (strict : Bool) :
    exec (.init cat strict) s = .next (initRule cat strict (s.begin .none)) :=
  congrArg Host.Outcome.next (frame_pass _ nofun rfl rfl)

/-- Settles O16: the rule behind the frame, with a check that finds nothing. -/
theorem initBinds : Obligations.InitBinds := by
  intro s cat strict hcat hcheck
  have hpass : catCheck (s.begin .none).catrom cat = none := hcheck
  simp only [exec_init, initRule, if_neg hcat, hpass]
  rfl

/-- Settles O17: catalog number 3 is refused unread, another one with what the check found. -/
theorem initFails : Obligations.InitFails := by
  intro s strict
  refine ⟨exec_init 3 strict, fun cat cause k hcat hcheck => ?_⟩
  have hfail : catCheck (s.begin .none).catrom cat = some (cause, k) := hcheck
  simp only [exec_init, initRule, if_neg hcat, hfail]
  rfl

end Sys2Proof.Machine

end

section
/-! The accessors of one register: the strict bit (O19, O20), the MTI as GET_MTI answers it (O24) and the presence bits
(O25, O26). A proof is the frame of R300 passed or refused, and the command's own rule behind it. -/

namespace Sys2Proof.Machine

variable {s : State} {key : BitVec 8} {arg : BitVec 16}

/-- A bit as RESVAL holds it (R303, R307). -/
theorem zeroExtend_ofBool : ∀ b : Bool, (BitVec.ofBool b).zeroExtend 32 = if b then (1 : Word) else 0 := by decide

/-! ### The strict bit (R302, R303) -/

theorem exec_setStrict (hb : s.bound = true) (ha : arg.toNat ≤ 1) :
    exec (.setStrict arg) s = .next { s.okEnd with strict := decide (arg.toNat = 1) } := by
  rw [← argBit_eq ha]
  exact congrArg Host.Outcome.next (frame_pass _ (fun _ => hb) rfl ((bitArgOk_iff arg).2 ha))

/-- Settles O19: a legal operand is stored, another one fails check 4. -/
theorem setStrict : Obligations.SetStrict := by
  refine ⟨fun w hop => ?decoded, fun s arg hb => ⟨fun ha => endsAs_of_eq (exec_setStrict hb ha), fun ha => ?refused⟩⟩
  case decoded =>
    obtain ⟨-, -, -, hdec, -⟩ := opcodeMap.1 w
    exact hdec hop
  case refused => exact endsAs_of_eq (frame_bit_outcome _ hb rfl (bitArgOk_eq_false ha))

/-- Settles O20: the scalar result is the bit. -/
theorem getStrict : Obligations.GetStrict := by
  refine ⟨fun w hop => ?decoded, fun s hb => ?answered⟩
  case decoded =>
    obtain ⟨-, -, -, -, hdec, -⟩ := opcodeMap.1 w
    exact hdec hop
  case answered =>
    rw [← zeroExtend_ofBool]
    exact endsAs_of_eq (congrArg Host.Outcome.next (frame_pass _ (fun _ => hb) rfl rfl))

/-! ### The packed MTI (R211, R305) -/

/-- The low nibble of a digit character is its value. -/
theorem toNat_digitNibble {c : Byte} (h : isDigit c = true) : (digitNibble c).toNat = digitVal c := by
  obtain ⟨hlo, hhi⟩ := (isDigit_iff c).1 h
  rw [digitNibble, BitVec.extractLsb'_toNat, digitVal, Nat.shiftRight_zero]
  omega

/-- A nibble behind a word is a hexadecimal digit behind a number. -/
theorem toNat_append_nibble {n : Nat} (x : BitVec n) (y : BitVec 4) : (x ++ y).toNat = x.toNat * 16 + y.toNat := by
  rw [BitVec.toNat_append, ← Nat.shiftLeft_add_eq_or_of_lt y.isLt, Nat.shiftLeft_eq]

theorem toNat_mtiPacked {m : Mti} (h : isNum (mtiBytes m) = true) : (mtiPacked m).toNat =
    digitVal m.d0 * 4096 + digitVal m.d1 * 256 + digitVal m.d2 * 16 + digitVal m.d3 := by
  obtain ⟨-, hall⟩ := (isNum_iff _).1 h
  simp only [mtiBytes, List.all_cons, List.all_nil, Bool.and_true, Bool.and_eq_true] at hall
  obtain ⟨h0, h1, h2, h3⟩ := hall
  have hzero : (0 : BitVec 16).toNat = 0 := rfl
  simp only [mtiPacked, toNat_append_nibble, toNat_digitNibble h0, toNat_digitNibble h1, toNat_digitNibble h2,
    toNat_digitNibble h3, hzero]
  omega

/-- Settles O24: MTI_VALID selects between the four characters with their packed digits and the empty result. -/
theorem getMti : Obligations.GetMti := by
  intro s hb
  have hrun : exec .getMti s = .next (if s.mtiValid then resultDone (mtiBytes s.mti) (mtiPacked s.mti) (s.begin .none)
      else scalarDone 0 (s.begin .none)) := congrArg Host.Outcome.next (frame_pass _ (fun _ => hb) rfl rfl)
  refine ⟨fun hvalid hcap hnum => ⟨mtiPacked s.mti, ?answers, toNat_mtiPacked hnum⟩, fun hunset => ?empty⟩
  case answers =>
    rw [hrun, if_pos hvalid]
    exact answers_resultDone _ hcap
  case empty =>
    rw [hrun, hunset]
    rfl

/-! ### The presence bits (R306, R307) -/

theorem exec_setBit (hb : s.bound = true) (hk : presKeyOk key = true) (ha : arg.toNat ≤ 1) :
    exec (.setBit key arg) s = .next { s.okEnd with pres := presSet s.pres key.toNat (decide (arg.toNat = 1)) } := by
  rw [← argBit_eq ha]
  exact congrArg Host.Outcome.next (frame_pass _ (fun _ => hb) hk ((bitArgOk_iff arg).2 ha))

/-- Settles O25: the map is the old one with one bit written. -/
theorem setBit : Obligations.SetBit := by
  refine ⟨fun w hop => ?decoded, fun s key arg hb =>
    ⟨fun h1 h128 ha => ?stored, fun hk => ?key, fun h1 h128 ha => ?bit⟩⟩
  case decoded =>
    obtain ⟨-, -, -, -, -, -, -, hdec, -⟩ := opcodeMap.1 w
    exact hdec hop
  case stored =>
    have hread (j : Nat) := presBit_presSet s.pres key.toNat j (decide (arg.toNat = 1)) ⟨h1, h128⟩
    exact ⟨_, endsAs_of_eq (exec_setBit hb ((presKeyOk_iff key).2 ⟨h1, h128⟩) ha), (hread _).trans (if_pos rfl),
      fun j hj => (hread j).trans (if_neg hj)⟩
  case key => exact endsAs_of_eq (frame_key_outcome _ hb (presKeyOk_eq_false hk))
  case bit => exact endsAs_of_eq (frame_bit_outcome _ hb ((presKeyOk_iff key).2 ⟨h1, h128⟩) (bitArgOk_eq_false ha))

/-- Settles O26: the scalar result is the bit. -/
theorem getBit : Obligations.GetBit := by
  refine ⟨fun w hop => ?decoded, fun s key hb => ⟨fun h1 h128 => ?answered, fun hk => ?key⟩⟩
  case decoded =>
    obtain ⟨-, -, -, -, -, -, -, -, hdec, -⟩ := opcodeMap.1 w
    exact hdec hop
  case answered =>
    rw [← zeroExtend_ofBool]
    exact endsAs_of_eq
      (congrArg Host.Outcome.next (frame_pass _ (fun _ => hb) ((presKeyOk_iff key).2 ⟨h1, h128⟩) rfl))
  case key => exact endsAs_of_eq (frame_key_outcome _ hb (presKeyOk_eq_false hk))

end Sys2Proof.Machine

end

section
/-! The field values: what a setter stores (O27) and refuses (O28), what GET_FIELD answers (O29), and that it answers
what SET_FIELD_TXT has stored (O30). -/

namespace Sys2Proof.Machine

variable {s t : State} {key : BitVec 8} {i : Instr} {v : Value}

/-! ### The setters (R308, R309, R311) -/

/-- The value is longer than the maximum of the descriptor, as the parameter SET_LEN_MEASURE has it measured (R311). -/
def ExceedsMax (m : Config.SetLenMeasure) (d : Word) (x : Bytes) : Prop :=
  (m = .contentUnits ∧ descEffmax d < if descEnc d = some .bin then x.length / 2 else x.length) ∨
    (m = .textChars ∧ descMax d < x.length)

theorem valueTooLong_iff {m : Config.SetLenMeasure} {d : Word} {desc x : Bytes} :
    valueTooLong m (fieldSpec d desc) x = true ↔ ExceedsMax m d x := by
  cases m with
  | contentUnits =>
    exact decide_eq_true_iff.trans ⟨fun h => .inl ⟨rfl, h⟩, fun h => h.elim And.right fun h => nomatch h.1⟩
  | textChars =>
    exact decide_eq_true_iff.trans ⟨fun h => .inr ⟨rfl, h⟩, fun h => h.elim (fun h => nomatch h.1) And.right⟩

theorem setField_noEntry {f : Nat} (hv : descV (s.catWord f) = false) :
    setField f v (s.begin .none) = { s.errEnd .specError .seNoEntry (some f) with errinfo := 0 } := by
  rw [setField, catLookup_none (s := s.begin .none) hv]
  rfl

theorem setField_tooLong {f : Nat} (hv : descV (s.catWord f) = true)
    (hlong : ExceedsMax s.params.setLenMeasure (s.catWord f) (str v)) :
    setField f v (s.begin .none) = { s.errEnd .reject .rjValueTooLong (some f) with errinfo := 0 } := by
  rw [setField, catLookup_entry (s := s.begin .none) hv, Res.andThen_val]
  exact if_pos (valueTooLong_iff.2 hlong)

theorem setField_stores {f : Nat} (hv : descV (s.catWord f) = true)
    (hfits : ¬ ExceedsMax s.params.setLenMeasure (s.catWord f) (str v)) :
    setField f v (s.begin .none) = ((s.setVal f v).setPres f true).okEnd := by
  rw [setField, catLookup_entry (s := s.begin .none) hv, Res.andThen_val]
  exact if_neg (mt valueTooLong_iff.1 hfits)

/-- `i` is the command that sets the field `key` to `v`: the operand as a text, or the number it spells. -/
def SetsField (i : Instr) (key : BitVec 8) (s : State) (v : Value) : Prop :=
  (i = .setFieldTxt key ∧ v = .text s.operand) ∨ (i = .setFieldInt key ∧ ∃ n, decToNat s.operand = some n ∧ v = .int n)

section InRange

variable (hb : s.bound = true) (hk : fieldKeyOk key = true)
include hb hk

/-- Either setter is R311 on its value. -/
theorem exec_setter (hset : SetsField i key s v) : exec i s = .next (setField key.toNat v (s.begin .none)) := by
  rcases hset with ⟨rfl, rfl⟩ | ⟨rfl, n, hn, rfl⟩
  · exact congrArg Host.Outcome.next (frame_pass _ (fun _ => hb) hk rfl)
  · have hoperand : decToNat (s.begin .none).operand = some n := hn
    refine congrArg Host.Outcome.next ((frame_pass _ (fun _ => hb) hk rfl).trans ?_)
    simp only [hoperand]
    rfl

/-- The digits are checked before the lookup (R309). -/
theorem exec_setFieldInt_nonnum (hn : decToNat s.operand = none) :
    exec (.setFieldInt key) s = .next { s.errEnd .reject .rjOperand (some key.toNat) with errinfo := 0 } := by
  have hoperand : decToNat (s.begin .none).operand = none := hn
  refine congrArg Host.Outcome.next ((frame_pass _ (fun _ => hb) hk rfl).trans ?_)
  simp only [hoperand]
  rfl

end InRange

/-- Settles O27: the slot and the bit are read after one write of each. -/
theorem setFieldAccepts : Obligations.SetFieldAccepts := by
  intro s key hb h2 h128 hv i v hset hunits hchars
  have hfits : ¬ ExceedsMax s.params.setLenMeasure (s.catWord key.toNat) (str v) := by
    rintro (⟨hm, hlong⟩ | ⟨hm, hlong⟩)
    · exact absurd (hunits hm) (Nat.not_le.2 hlong)
    · exact absurd (hchars hm) (Nat.not_le.2 hlong)
  have hrun := exec_setter hb ((fieldKeyOk_iff key).2 ⟨h2, h128⟩) hset
  rw [setField_stores hv hfits] at hrun
  have hval (g : Nat) := State.val_setVal s key.toNat g v
  have hpres (g : Nat) := presBit_presSet s.pres key.toNat g true ⟨by omega, h128⟩
  exact ⟨_, hrun, rfl, (hval _).trans (if_pos rfl), fun g hg => (hval g).trans (if_neg hg),
    (hpres _).trans (if_pos rfl), fun g hg => (hpres g).trans (if_neg hg)⟩

/-- Settles O28: the operand before the lookup, the lookup before the length. -/
theorem setFieldRefuses : Obligations.SetFieldRefuses := by
  intro s key hb h2 h128
  have hk := (fieldKeyOk_iff key).2 ⟨h2, h128⟩
  refine ⟨exec_setFieldInt_nonnum hb hk, fun i v hset => ⟨fun hv => ?noEntry, fun hv hlong => ?tooLong⟩⟩
  case noEntry => rw [exec_setter hb hk hset, setField_noEntry hv]
  case tooLong => rw [exec_setter hb hk hset, setField_tooLong hv hlong]

/-! ### GET_FIELD (R310) -/

/-- The kind of a value in RESVAL[1:0]. -/
def valueTag : Value → BitVec 2
  | .absent => 0
  | .int _ => 1
  | .text _ => 2

theorem fieldTag_table : ∀ b : Bool, fieldTag 0 b = (if b then 0x100 else 0) ∧
    fieldTag 1 b = (if b then 0x101 else 0x001) ∧ fieldTag 2 b = if b then 0x102 else 0x002 := by decide

/-- The empty byte-string result always fits, and is the scalar result. -/
theorem resultDone_nil (rv : Word) (s : State) : resultDone [] rv s = scalarDone rv s := by
  simp only [resultDone, putResult, List.length_nil, Nat.not_lt_zero, if_false]
  rfl

/-- GET_FIELD answers the stringified value (R11), Absent as the empty string, with its kind and its presence bit. -/
theorem exec_getField (hb : s.bound = true) (hk : fieldKeyOk key = true) : exec (.getField key) s =
    .next (resultDone (str (s.val key.toNat)) (fieldTag (valueTag (s.val key.toNat)) (presBit s.pres key.toNat))
      (s.begin .none)) := by
  refine congrArg Host.Outcome.next ((frame_pass _ (fun _ => hb) hk rfl).trans ?_)
  have hval : (s.begin .none).val (keyNat key) = s.val key.toNat := rfl
  rw [hval]
  cases s.val key.toNat with
  | absent => exact (resultDone_nil _ _).symm
  | int n => rfl
  | text x => rfl

/-- Settles O29: the kinds differ in the tag; what does not fit RESBUF is refused whatever its kind. -/
theorem getField : Obligations.GetField := by
  refine ⟨fun w hop => ?decoded, fun s key hb =>
    ⟨fun h2 h128 => ?inRange, fun hk => endsAs_of_eq (frame_key_outcome _ hb (fieldKeyOk_eq_false hk))⟩⟩
  case decoded =>
    obtain ⟨-, -, -, -, -, -, -, -, -, -, -, hdec, -⟩ := opcodeMap.1 w
    exact hdec hop
  case inRange =>
    have hrun := exec_getField hb ((fieldKeyOk_iff key).2 ⟨h2, h128⟩)
    obtain ⟨habsent, hint, htext⟩ := fieldTag_table (presBit s.pres key.toNat)
    refine ⟨fun hval => ?absent, fun n hval hcap => ?int, fun x hval hcap => ?text, fun hcap => ?overflow⟩
    case absent =>
      rw [hrun, hval, ← habsent]
      exact endsAs_of_eq (congrArg Host.Outcome.next ((resultDone_nil _ _).trans (begin_scalarDone s _)))
    case int =>
      rw [hrun, hval, ← hint]
      exact answers_resultDone _ hcap
    case text =>
      rw [hrun, hval, ← htext]
      exact answers_resultDone _ hcap
    case overflow =>
      rw [hrun]
      exact endsAs_of_eq (congrArg Host.Outcome.next (resultDone_over _ hcap))

/-! ### A text stored and read back -/

/-- SET_FIELD_TXT ends OK only where no check refuses it, and then it has stored its operand. -/
theorem stored_of_setFieldTxt_ok (hexec : exec (.setFieldTxt key) s = .next t) (hok : t.kind = .ok) :
    s.bound = true ∧ (2 ≤ key.toNat ∧ key.toNat ≤ 128) ∧
      t = ((s.setVal key.toNat (.text s.operand)).setPres key.toNat true).okEnd := by
  have herr {k : Kind} {c : Cause} {o : Option Nat}
      (h : exec (.setFieldTxt key) s = .next { s.errEnd k c o with errinfo := 0 }) (hk : k ≠ .ok) : False := by
    cases hexec.symm.trans h
    exact hk hok
  have hb : s.bound = true := by
    by_contra hb
    exact herr (frame_unbound_outcome _ (Bool.eq_false_of_not_eq_true hb)) nofun
  have hk : 2 ≤ key.toNat ∧ key.toNat ≤ 128 := by
    by_contra hk
    exact herr (frame_key_outcome _ hb (fieldKeyOk_eq_false (key := key) (by omega))) nofun
  have hrun := exec_setter hb ((fieldKeyOk_iff key).2 hk) (.inl ⟨rfl, rfl⟩)
  have hv : descV (s.catWord key.toNat) = true := by
    by_contra hv
    exact herr (hrun.trans (congrArg _ (setField_noEntry (Bool.eq_false_of_not_eq_true hv)))) nofun
  have hfits : ¬ ExceedsMax s.params.setLenMeasure (s.catWord key.toNat) (str (.text s.operand)) := fun hlong =>
    herr (hrun.trans (congrArg _ (setField_tooLong hv hlong))) nofun
  rw [setField_stores hv hfits] at hrun
  cases hexec.symm.trans hrun
  exact ⟨hb, hk, rfl⟩

/-- Settles O30: GET_FIELD of a text that fits RESBUF, in the state that SET_FIELD_TXT leaves. -/
theorem setThenGetField : Obligations.SetThenGetField := by
  intro s t key hcap hexec hok
  obtain ⟨hb, ⟨h2, h128⟩, ht⟩ := stored_of_setFieldTxt_ok hexec hok
  have hbound : t.bound = true := by rw [ht]; exact hb
  have hval : t.val key.toNat = .text s.operand := by
    rw [ht]
    exact (State.val_setVal s key.toNat key.toNat (.text s.operand)).trans (if_pos rfl)
  have hpres : presBit t.pres key.toNat = true := by
    rw [ht]
    exact (presBit_presSet s.pres key.toNat key.toNat true ⟨by omega, h128⟩).trans (if_pos rfl)
  have hfits : s.operand.length ≤ t.params.bufCap := by
    rw [ht, operand_length]
    exact hcap
  obtain ⟨hrange, -⟩ := getField.2 t key hbound
  obtain ⟨-, -, htext, -⟩ := hrange h2 h128
  have hanswer := htext s.operand hval hfits
  rwa [if_pos hpres] at hanswer

end Sys2Proof.Machine

end

section
/-! What a setter, a getter or a primitive codec that fails leaves alone (O35): each of its ends is a raise out of the
command frame, before anything but ERRINFO was written, or it is a normal end. -/

namespace Sys2Proof.Machine

variable {s : State}

/-- If a command that began in `s` and ended in `t` has failed, then it has changed nothing but STATUS, the results,
ERRINFO and the model's latches (R349). -/
def FailureSpares (s t : State) : Prop :=
  t.kind ≠ .ok → t = { s.errEnd t.kind t.cause t.ekey with errinfo := t.errinfo }

/-- The same of a command that leaves ERRINFO as the frame has cleared it (R300; log 19). -/
def FailureClears (s t : State) : Prop :=
  t.kind ≠ .ok → t = { s.errEnd t.kind t.cause t.ekey with errinfo := 0 }

theorem FailureClears.outcome {t : State} (h : FailureClears s t) (hk : t.kind ≠ .ok) :
    t = { s.errEnd t.kind t.cause t.ekey with errinfo := t.errinfo } ∧ t.errinfo = 0 := by
  have hinfo : t.errinfo = 0 := congrArg State.errinfo (h hk)
  rw [hinfo]
  exact ⟨h hk, rfl⟩

/-! ### The ends of a command (R300, R340) -/

theorem failureClears_raise (k : Kind) (c : Cause) (key : Option Nat) :
    FailureClears s ((s.begin .none).raise k c key) := fun _ => begin_none_raise s k c key

theorem failureSpares_raise (n : Word) (k : Kind) (c : Cause) (key : Option Nat) :
    FailureSpares s ({ s.begin .none with errinfo := n }.raise k c key) := fun _ => rfl

theorem failureClears_finish {t : State} : FailureClears s t.finish := fun hk => absurd rfl hk

theorem failureClears_resultDone (v : Bytes) (rv : Word) : FailureClears s (resultDone v rv (s.begin .none)) := by
  by_cases hcap : s.params.bufCap < v.length
  · rw [resultDone_over rv hcap]
    exact fun _ => rfl
  · have hfits : ¬ (s.begin .none).params.bufCap < v.length := hcap
    rw [resultDone, putResult, if_neg hfits]
    exact failureClears_finish

/-! ### The parts of a command -/

/-- What holds of every refusal of the frame and of the command's own rule behind it holds of the command. -/
theorem frame_ends {P : State → Prop} {nb ko bo : Bool} {rule : State → State}
    (hrefused : ∀ k c, P ((s.begin .none).raise k c none)) (hrule : P (rule (s.begin .none))) :
    P (frame nb ko bo s rule) := by
  unfold frame
  split
  · exact hrefused _ _
  · exact hrule

theorem failureClears_frame {nb ko bo : Bool} {rule : State → State}
    (hrule : FailureClears s (rule (s.begin .none))) : FailureClears s (frame nb ko bo s rule) :=
  frame_ends (fun _ _ => failureClears_raise _ _ _) hrule

theorem failureClears_catLookup {g : FieldSpec → State → State} (k : Nat)
    (hg : ∀ e, FailureClears s (g e (s.begin .none))) :
    FailureClears s ((catLookup k (s.begin .none)).andThen g) := by
  unfold catLookup
  split
  · exact hg _
  · exact failureClears_raise _ _ _

theorem failureClears_setField (f : Nat) (v : Value) : FailureClears s (setField f v (s.begin .none)) := by
  refine failureClears_catLookup f fun e => ?_
  split
  · exact failureClears_raise _ _ _
  · exact failureClears_finish

theorem failureClears_codecCommand (f : Bytes → Option (Bytes × Word)) : FailureClears s (codecCommand s f) := by
  refine failureClears_frame ?_
  split
  · exact failureClears_raise _ _ _
  · exact failureClears_resultDone _ _

/-- A text that the set path refuses goes into ERRINFO, and nowhere else (R208). -/
theorem failureSpares_mtiSet (t : Bytes) :
    FailureSpares s ((mtiSet t (s.begin .none)).andThen fun _ u => u.finish) := by
  unfold mtiSet
  split
  · exact failureSpares_raise _ _ _ _
  split
  · exact failureSpares_raise _ _ _ _
  split
  · exact failureSpares_raise _ _ _ _
  · exact fun hk => absurd rfl hk

/-! ### The commands -/

/-- The setters, getters and primitive codecs (R349) but SET_MTI, the one that writes ERRINFO. -/
def accessors (key : BitVec 8) (arg : BitVec 16) : List Instr :=
  [.setStrict arg, .getStrict, .getMti, .setBit key arg, .getBit key, .setFieldTxt key, .setFieldInt key, .getField key,
    .getDenc key, .getLdisc key, .getClass key, .getLenc key, .getMaxlen key, .getDesc key, .bcdDecode, .bcdEncode,
    .bcdToInt, .intToBcd, .hexEncode, .hexDecode]

theorem exec_accessor_failureClears (s : State) (key : BitVec 8) (arg : BitVec 16) :
    ∀ i ∈ accessors key arg, ∃ t, exec i s = .next t ∧ FailureClears s t := by
  have hquery (view : FieldSpec → Word) : FailureClears s (introspect key s view) :=
    failureClears_frame (failureClears_catLookup _ fun _ => failureClears_finish)
  simp only [accessors, List.forall_mem_cons, List.not_mem_nil, false_implies, implies_true, and_true]
  refine ⟨?setStrict, ?getStrict, ?getMti, ?setBit, ?getBit, ?setFieldTxt, ?setFieldInt, ?getField, ⟨_, rfl, hquery _⟩,
    ⟨_, rfl, hquery _⟩, ⟨_, rfl, hquery _⟩, ⟨_, rfl, hquery _⟩, ⟨_, rfl, hquery _⟩, ?getDesc,
    ⟨_, rfl, failureClears_codecCommand _⟩, ⟨_, rfl, failureClears_codecCommand _⟩,
    ⟨_, rfl, failureClears_codecCommand _⟩, ⟨_, rfl, failureClears_codecCommand _⟩,
    ⟨_, rfl, failureClears_codecCommand _⟩, ⟨_, rfl, failureClears_codecCommand _⟩⟩
  case setStrict | getStrict | setBit | getBit => exact ⟨_, rfl, failureClears_frame failureClears_finish⟩
  case getMti =>
    refine ⟨_, rfl, failureClears_frame ?_⟩
    split
    · exact failureClears_resultDone _ _
    · exact failureClears_finish
  case setFieldTxt => exact ⟨_, rfl, failureClears_frame (failureClears_setField _ _)⟩
  case setFieldInt =>
    refine ⟨_, rfl, failureClears_frame ?_⟩
    split
    · exact failureClears_raise _ _ _
    · exact failureClears_setField _ _
  case getField =>
    refine ⟨_, rfl, failureClears_frame ?_⟩
    split
    · exact failureClears_finish
    · exact failureClears_resultDone _ _
    · exact failureClears_resultDone _ _
  case getDesc => exact ⟨_, rfl, failureClears_frame (failureClears_catLookup _ fun _ => failureClears_resultDone _ _)⟩

/-- Settles O35: SET_MTI by the set path, the 20 others by what their ends leave alone. -/
theorem failuresKeepMessage : Obligations.FailuresKeepMessage := by
  intro s t key arg i hi ht hk
  by_cases hset : i = .setMti
  · subst hset
    cases ht
    have hspares : FailureSpares s (frame true true true s fun u => (mtiSet u.operand u).andThen fun _ v => v.finish) :=
      frame_ends (fun _ _ => failureSpares_raise 0 _ _ _) (failureSpares_mtiSet _)
    exact ⟨hspares hk, fun h => absurd rfl h⟩
  · have hmem : i ∈ accessors key arg := by simpa [accessors, hset] using hi
    obtain ⟨u, hu, hclears⟩ := exec_accessor_failureClears s key arg i hmem
    cases ht.symm.trans hu
    obtain ⟨hkeeps, hinfo⟩ := hclears.outcome hk
    exact ⟨hkeeps, fun _ => hinfo⟩

end Sys2Proof.Machine

end

section
/-! How one part of the decode path ends a DECODE: the MTI and a bitmap word as the failures of the header say
(`mtiFailure`, `wordFailure`), a field with an error of its own key where the reference parse reads nothing. -/

namespace Sys2Proof.Machine

variable {s u : State} {d : Word} {bs v rest : Bytes} {n : Nat}

/-! ### The bytes that are left (R66, R67) -/

theorem splitBytes_eq_none : splitBytes n bs = none ↔ bs.length < n := by
  unfold splitBytes
  split
  · next h => exact iff_of_false nofun (Nat.not_lt.2 h)
  · next h => exact iff_of_true rfl (Nat.lt_of_not_le h)

/-- An underrun, where fewer bytes are left. -/
theorem State.Left.take_short (h : s.Left bs) (hn : bs.length < n) (k : Nat) :
    Machine.take n k s = .fail s .parseError .peUnderrun (some k) := by
  obtain ⟨-, hend⟩ := h
  exact Machine.take_short (by omega)

/-- The cursor behind the bytes that were taken. -/
theorem State.Left.leaving_cursor (h : s.Left bs) (hs : splitBytes n bs = some (v, rest)) :
    s.leaving rest = { s with cursor := s.cursor + n } := by
  obtain ⟨rfl, rfl⟩ := splitBytes_eq_some.1 hs
  obtain ⟨-, hend⟩ := h
  rw [List.length_append] at hend
  rw [State.leaving, show s.rxlen - rest.length = s.cursor + v.length by omega]

/-! ### The header (R201, R207, R181) -/

/-- A part of the header phases of a DECODE fails as `e` says, the item of the key `key` being at fault. -/
def HeaderFailure.Ends {α : Type} (e : HeaderFailure) (key : Nat) (s : State) (r : Res α) : Prop :=
  (e.kind = .parseError ∨ e.kind = .specError) ∧
    r = .fail { s with cursor := s.cursor + e.taken, errinfo := e.errinfo } e.kind e.cause (some key)

/-- A failure that leaves ERRINFO clear. -/
theorem ends_of_fail {α : Type} {key : Nat} {r : Res α} {k : Kind} {c : Cause} (h0 : s.errinfo = 0)
    (hk : k = .parseError ∨ k = .specError) (h : r = .fail { s with cursor := s.cursor + n } k c (some key)) :
    HeaderFailure.Ends { kind := k, cause := c, taken := n } key s r := by
  have hinfo : { s with cursor := s.cursor + n, errinfo := 0 } = { s with cursor := s.cursor + n } := by rw [← h0]
  exact ⟨hk, h.trans (by rw [hinfo])⟩

theorem Res.bind_val_right {α : Type} (r : Res α) : (r.bind fun a u => .val a u) = r := by cases r <;> rfl

theorem splitBytes_of_not_lt (h : ¬ bs.length < n) : splitBytes n bs = some (bs.take n, bs.drop n) :=
  if_pos (Nat.not_lt.1 h)

/-- A received MTI fails where too few bytes are left, or where the validator names a cause (R207). -/
theorem mtiDecode_text_ends {text : Bytes → Bytes} (h0 : s.errinfo = 0) (h : s.Left bs)
    (hread : mtiRead s = (take n 0 s).bind fun v u => .val (text v) u)
    (hcheck : ∀ v rest, splitBytes n bs = some (v, rest) → mtiCheck (text v) s.strict ≠ none) :
    ∃ e, mtiTextFailure n text s.strict bs = some e ∧ e.Ends 0 s (mtiDecode s) := by
  unfold mtiTextFailure
  by_cases hn : bs.length < n
  · rw [h.take_short hn, Res.fail_bind] at hread
    exact ⟨underrunFailure, if_pos hn, ends_of_fail h0 (.inl rfl) (by rw [mtiDecode, hread, Res.fail_bind]; rfl)⟩
  · have hs := splitBytes_of_not_lt hn
    obtain ⟨c, hc⟩ := Option.ne_none_iff_exists'.1 (hcheck _ _ hs)
    obtain ⟨htake, -⟩ := h.take hs
    rw [htake, Res.bind_val, h.leaving_cursor hs] at hread
    exact ⟨_, by rw [if_neg hn, hc, Option.map_some], .inl rfl, by simp only [mtiDecode, hread, Res.bind_val, hc]⟩

/-- The MTI phase fails as R201 and R207 say. -/
theorem mtiDecode_ends (h0 : s.errinfo = 0) (h : s.Left bs) (hp : parseMti (s.catWord 0) s.strict bs = none) :
    ∃ e, mtiFailure (s.catWord 0) s.strict bs = some e ∧ e.Ends 0 s (mtiDecode s) := by
  by_cases hv : descV (s.catWord 0) = true
  case neg =>
    exact ⟨noEntryFailure, if_neg hv, ends_of_fail h0 (.inr rfl)
      (by
        rw [mtiDecode, mtiRead, catLookup_none (Bool.eq_false_of_not_eq_true hv), Res.fail_bind, Res.fail_bind]
        rfl)⟩
  rw [mtiFailure, if_pos hv]
  rcases henc : descEnc (s.catWord 0) with _ | _ | _ | _
  case some.ascii =>
    refine mtiDecode_text_ends (text := id) h0 h ?read fun v rest hs hcheck => ?legal
    case read => simp only [mtiRead, catLookup_entry hv, Res.bind_val, fieldSpec_denc, henc, id, Res.bind_val_right]
    case legal => cases hp.symm.trans (parseMti_eq_some.2 ⟨hv, hcheck, .inr ⟨henc, hs⟩⟩)
  case some.bcd =>
    refine mtiDecode_text_ends h0 h ?read fun v rest hs hcheck => ?legal
    case read => simp only [mtiRead, catLookup_entry hv, Res.bind_val, fieldSpec_denc, henc]
    case legal => cases hp.symm.trans (parseMti_eq_some.2 ⟨hv, hcheck, .inl ⟨henc, v, hs, rfl⟩⟩)
  all_goals
    exact ⟨headerEncodingFailure, rfl,
      ends_of_fail h0 (.inr rfl) (by simp [mtiDecode, mtiRead, catLookup_entry hv, henc])⟩

/-- A text of even length that is not hexadecimal holds a character that is no digit (R131). -/
theorem hexDecode_eq_none_of_even {t : Bytes} (heven : t.length % 2 = 0) (h : hexDecode t = none) :
    t.all (fun c => (nibval c).isSome) = false := by
  by_contra hall
  have hdigits : ∀ c ∈ t, (nibval c).isSome := List.all_eq_true.1 (Bool.eq_true_of_not_eq_false hall)
  have hsome := (hexDecode_isSome_iff t).2 ⟨heven, hdigits⟩
  rw [h] at hsome
  cases hsome

/-- The read of a bitmap word fails as R181 says. -/
theorem readWord_ends (h0 : s.errinfo = 0) (h : s.Left bs) (hp : parseWord (s.catWord 1) bs = none) :
    ∃ e, wordFailure (s.catWord 1) bs = some e ∧ e.Ends 1 s (readWord s) := by
  by_cases hv : descV (s.catWord 1) = true
  case neg =>
    exact ⟨noEntryFailure, if_neg hv, ends_of_fail h0 (.inr rfl)
      (by rw [readWord, catLookup_none (Bool.eq_false_of_not_eq_true hv), Res.fail_bind]; rfl)⟩
  rw [wordFailure, if_pos hv]
  rcases henc : descEnc (s.catWord 1) with _ | _ | _ | _
  case some.bin =>
    by_cases hn : bs.length < 8
    · exact ⟨underrunFailure, if_pos hn,
        ends_of_fail h0 (.inl rfl) (by simp [readWord, catLookup_entry hv, henc, h.take_short hn])⟩
    · cases hp.symm.trans (parseWord_eq_some.2 ⟨hv, .inl ⟨henc, _, splitBytes_of_not_lt hn, rfl⟩⟩)
  case some.ascii =>
    by_cases hn : bs.length < 16
    · exact ⟨underrunFailure, if_pos hn,
        ends_of_fail h0 (.inl rfl) (by simp [readWord, catLookup_entry hv, henc, h.take_short hn])⟩
    have hs := splitBytes_of_not_lt hn
    obtain ⟨htake, -⟩ := h.take hs
    obtain ⟨hlen, -⟩ := splitBytes_eq_some.1 hs
    cases hhex : hexDecode (bs.take 16) with
    | some v => cases hp.symm.trans (parseWord_eq_some.2 ⟨hv, .inr ⟨henc, _, _, hs, hhex, rfl⟩⟩)
    | none =>
      have hbad := hexDecode_eq_none_of_even (by rw [hlen]) hhex
      refine ⟨_, by simp only [if_neg hn, hbad]; rfl, ends_of_fail h0 (.inl rfl) ?_⟩
      simp only [readWord, catLookup_entry hv, fieldSpec_denc, henc, htake, Res.bind_val, hhex, h.leaving_cursor hs]
  all_goals
    exact ⟨headerEncodingFailure, rfl, ends_of_fail h0 (.inr rfl) (by simp [readWord, catLookup_entry hv, henc])⟩

theorem wordFailure_errinfo {e : HeaderFailure} (h : wordFailure d bs = some e) : e.errinfo = 0 := by
  unfold wordFailure at h
  split at h
  · generalize descEnc d = denc at h
    split at h
    · obtain ⟨-, he⟩ := Option.ite_none_right_eq_some.1 h
      cases he
      rfl
    · split_ifs at h <;> cases h <;> rfl
    · cases h
      rfl
  · cases h
    rfl

theorem bitmapDecode_ends_first (h0 : s.errinfo = 0) (h : s.Left bs) (hp : parseWord (s.catWord 1) bs = none) :
    ∃ e, wordFailure (s.catWord 1) bs = some e ∧ e.Ends 1 s (bitmapDecode s) := by
  obtain ⟨e, he, hk, hfail⟩ := readWord_ends h0 h hp
  exact ⟨e, he, hk, by rw [bitmapDecode, hfail, Res.fail_bind]⟩

/-- The second word fails with the first one stored (R182). -/
theorem bitmapDecode_ends_second {w : BitmapWord} (h0 : s.errinfo = 0) (h : s.Left bs)
    (hw : parseWord (s.catWord 1) bs = some (w, rest)) (hp : parseBitmap (s.catWord 1) bs = none) :
    ∃ e, wordFailure (s.catWord 1) rest = some e ∧ e.Ends 1 ((s.leaving rest).setPrimary w) (bitmapDecode s) := by
  obtain ⟨hread, hleft⟩ := readWord_of_parseWord h hw
  rw [parseBitmap, hw, Option.bind_some] at hp
  obtain ⟨hbit, hp⟩ : w.getLsbD 63 = true ∧ parseWord (s.catWord 1) rest = none := by
    split at hp
    · next hbit => exact ⟨hbit, Option.map_eq_none_iff.1 hp⟩
    · cases hp
  obtain ⟨e, he, hk, hfail⟩ := readWord_ends (s := (s.leaving rest).setPrimary w) h0 hleft hp
  refine ⟨e, he, hk, ?_⟩
  rw [bitmapDecode, hread, Res.bind_val, presBit_one_setPrimary, if_pos hbit, hfail, Res.fail_bind]

/-! ### One field (R223 to R239) -/

/-- A step of the field FIDX has ended the DECODE in `u` with an error that names the field; only the cursor and what
reports the error have changed. -/
def FieldFails (s u : State) : Prop :=
  ∃ k c n, (k = .parseError ∨ k = .specError) ∧ u = { s.errEnd k c (some s.fidx) with cursor := n }

theorem fieldFails_raise {k : Kind} {c : Cause} (hr : s.running = .decode) (hk : k = .parseError ∨ k = .specError) :
    FieldFails s (s.raise k c (some s.fidx)) := ⟨k, c, s.cursor, hk, raise_decode s k c _ hr⟩

section Field

variable (hr : s.running = .decode)
include hr

theorem fieldFails_take {g : Bytes → State → State} (h : s.Left bs)
    (hg : ∀ v rest, splitBytes n bs = some (v, rest) → FieldFails (s.leaving rest) (g v (s.leaving rest))) :
    FieldFails s ((take n s.fidx s).andThen g) := by
  by_cases hn : bs.length < n
  · rw [h.take_short hn, Res.fail_andThen]
    exact fieldFails_raise hr (.inl rfl)
  · have hs := splitBytes_of_not_lt hn
    rw [(h.take hs).1, Res.andThen_val]
    exact hg _ _ hs

theorem fieldFails_lengthKnown (h : descEffmax d < n) : FieldFails s (lengthKnown d n s) := by
  rw [lengthKnown_over h]
  exact fieldFails_raise hr (.inl rfl)

theorem fieldFails_lengthDigits (h : ∀ n, decToNat v = some n → descEffmax d < n) :
    FieldFails s (lengthDigits d v s) := by
  unfold lengthDigits
  split
  · next n hn => exact fieldFails_lengthKnown hr (h n hn)
  · exact fieldFails_raise hr (.inl rfl)

theorem fieldFails_valueDigits (h : decToNat v = none) : FieldFails s (valueDigits v s) := by
  rw [valueDigits, h]
  exact fieldFails_raise hr (.inl rfl)

/-- The length stage fails where the reference parse reads no length. -/
theorem fieldFails_lengthOperation (h : s.Left bs) (hp : parseLength s.params.binLenMode d bs = none) :
    FieldFails s (lengthOperation (discOfCode (descLdisc d)) (encOfCode (descLenc d)) d s) := by
  unfold parseLength at hp
  split at hp
  · cases hp
  next hvar =>
  have hover : ∀ v rest, splitBytes (prefixWidth d) bs = some (v, rest) →
      ∀ n, prefixValue s.params.binLenMode d v = some n → descEffmax d < n := by
    intro v rest hs n hn
    simpa [hs, hn] using hp
  unfold prefixWidth prefixValue at hover
  rw [lengthOperation.eq_def, if_neg hvar]
  cases hlenc : encOfCode (descLenc d) with
  | none => exact fieldFails_raise hr (.inr rfl)
  | some enc =>
    rw [hlenc] at hover
    cases enc with
    | ascii => exact fieldFails_take hr h fun v rest hs => fieldFails_lengthDigits hr (hover v rest hs)
    | bcd => exact fieldFails_take hr h fun v rest hs => fieldFails_lengthDigits hr (hover v rest hs)
    | bin =>
      change FieldFails s (lengthBin _ d s)
      unfold lengthBin
      split
      · exact fieldFails_raise hr (.inr rfl)
      · next hmode =>
        rw [hmode] at hover
        exact fieldFails_take hr h fun v rest hs => fieldFails_lengthKnown hr (hover v rest hs _ rfl)

/-- The value stage fails where the reference parse reads no value. -/
theorem fieldFails_valueOperation (h : s.Left bs)
    (hnone : ∀ v rest, splitBytes (valueWidth d s.len) bs = some (v, rest) → valueOfBytes d v = none) :
    FieldFails s (valueOperation (descEnc d) (descClass d) s) := by
  unfold valueWidth valueOfBytes at hnone
  generalize descEnc d = denc, descClass d = cls at hnone ⊢
  unfold valueOperation
  split
  · exact fieldFails_take hr h fun v rest hs => fieldFails_valueDigits hr (Option.map_eq_none_iff.1 (hnone v rest hs))
  · next c hne =>
    refine fieldFails_take hr h fun v rest hs => ?_
    have hv := hnone v rest hs
    cases c with
    | clsN => exact absurd rfl hne
    | _ => cases hv
  · exact fieldFails_take hr h fun v rest hs => fieldFails_valueDigits hr (Option.map_eq_none_iff.1 (hnone v rest hs))
  · exact fieldFails_take hr h fun v rest hs => nomatch hnone v rest hs
  · exact fieldFails_take hr h fun v rest hs => nomatch hnone v rest hs
  · exact fieldFails_take hr h fun v rest hs => nomatch hnone v rest hs
  · exact fieldFails_take hr h fun v rest hs => nomatch hnone v rest hs
  · exact fieldFails_raise hr (.inr rfl)

end Field

/-! ### The steps of a field that fails -/

theorem FieldFails.busy (h : FieldFails s u) : u.busy = false := by
  obtain ⟨-, -, -, -, rfl⟩ := h
  rfl

/-- A step that ends the DECODE in the field FIDX. -/
theorem runsTo_fieldFails (hstep : seqStep s = .next u) (h : FieldFails s u) : ∃ t, s.RunsTo t ∧ FieldFails s t :=
  ⟨u, runsTo_last hstep h.busy, h⟩

theorem fails_of_value (hr : s.running = .decode) (hp : s.phase = .field) (hst : s.stage = some .dval)
    (hv : descV s.desc = true) (h : s.Left bs)
    (hnone : ∀ v rest, splitBytes (valueWidth s.desc s.len) bs = some (v, rest) → valueOfBytes s.desc v = none) :
    ∃ t, s.RunsTo t ∧ FieldFails s t :=
  runsTo_fieldFails ((seqStep_fieldStage hp hst).trans (fieldStage_dval hv)) (fieldFails_valueOperation hr h hnone)

/-- What the parse does not make of the bytes behind a length (R223, R229). -/
theorem fails_of_length (hd : s.Decoding) (hp : s.phase = .field) (hst : s.stage = some .dlen)
    (hv : descV s.desc = true) (h : s.Left bs)
    (hnone : ∀ n mid, parseLength s.params.binLenMode s.desc bs = some (n, mid) → n ≠ 0 ∧
      ∀ v rest, splitBytes (valueWidth s.desc n) mid = some (v, rest) → valueOfBytes s.desc v = none) :
    ∃ t, s.RunsTo t ∧ FieldFails s t := by
  have hstep := (seqStep_fieldStage hp hst).trans (fieldStage_dlen hv)
  cases hlen : parseLength s.params.binLenMode s.desc bs with
  | none => exact runsTo_fieldFails hstep (fieldFails_lengthOperation hd.running h hlen)
  | some x =>
    obtain ⟨n, mid⟩ := x
    obtain ⟨h0, hvalue⟩ := hnone n mid hlen
    obtain ⟨hop, hmax, hmid⟩ := lengthOperation_of_parseLength h hlen
    rw [hop, lengthKnown_value hmax h0] at hstep
    obtain ⟨t, hrun, hfails⟩ := fails_of_value (s := { s.leaving mid with len := n, stage := some .dval })
      hd.running hp rfl hv hmid hvalue
    exact ⟨t, hd.runsTo_step hstep hd.busy hrun, hfails⟩

/-- A field that does not parse ends the DECODE. -/
theorem fails_of_parseField (hd : s.Decoding) (hp : s.phase = .field) (hst : s.stage = none) (h : s.Left bs)
    (hparse : parseField s.params.binLenMode (s.catWord s.fidx) bs = none) : ∃ t, s.RunsTo t ∧ FieldFails s t := by
  by_cases hv : descV (s.catWord s.fidx) = true
  case neg =>
    have hstep : seqStep s = .next (s.raise .specError .seNoEntry (some s.fidx)) := by
      simp only [seqStep, hp, hst, fetchDescriptor, if_neg hv]
    exact runsTo_fieldFails hstep (fieldFails_raise hd.running (.inr rfl))
  rw [parseField, if_pos hv] at hparse
  obtain ⟨t, hrun, hfails⟩ := fails_of_length (s := { s with desc := s.catWord s.fidx, stage := some .dlen })
    ⟨hd.running, hd.busy, hd.reslen⟩ hp rfl hv h fun n mid hlen => by
      have hlen' : parseLength s.params.binLenMode (s.catWord s.fidx) bs = some (n, mid) := hlen
      rw [hlen', Option.bind_some] at hparse
      split at hparse
      · cases hparse
      · next h0 =>
        refine ⟨h0, fun v rest hs => ?_⟩
        have hs' : splitBytes (valueWidth (s.catWord s.fidx) n) mid = some (v, rest) := hs
        rw [hs', Option.bind_some] at hparse
        exact Option.map_eq_none_iff.1 hparse
  exact ⟨t, hd.runsTo_step (seqStep_fetch hd.running hp hst hv) hd.busy hrun, hfails⟩

end Sys2Proof.Machine

end

section
/-! DECODE where the reference parse reads no message (O55): the phases before the one that fails do what they do in a
DECODE that completes, and the part that fails ends the command. -/

namespace Sys2Proof.Machine

variable {s t : State} {bs mid rest : Bytes} {f : Nat}

/-! ### The fields before the one that fails (R31) -/

/-- The first field that does not parse. -/
theorem exists_of_parseFields_none {mode : Config.BinLenMode} {word : Nat → Word} : ∀ {fs : List Nat} {bs : Bytes},
    parseFields mode word fs bs = none → ∃ pre g post c, fs = pre ++ g :: post ∧
      parseFields mode word pre bs = some c ∧ parseField mode (word g) c.2 = none
  | [], _, h => nomatch h
  | g :: fs, bs, h => by
    cases hg : parseField mode (word g) bs with
    | none => exact ⟨[], g, fs, ([], bs), rfl, rfl, hg⟩
    | some x =>
      rw [parseFields, hg, Option.bind_some, Option.map_eq_none_iff] at h
      obtain ⟨pre, j, post, c, rfl, hpre, hj⟩ := exists_of_parseFields_none h
      refine ⟨g :: pre, j, post, (if x.1 = .absent then c.1 else (g, x.1) :: c.1, c.2), rfl, ?_, hj⟩
      rw [parseFields, hg, Option.bind_some, hpre, Option.map_some]

/-- The fields `fs` are stored, and the field `g` behind them ends the DECODE. -/
theorem nextField_fails {g : Nat} {gs : List Nat} (fs : List Nat) :
    ∀ {s : State} {f : Nat} {bs : Bytes} {vs : List (Nat × Value)}, s.Decoding → s.Left bs →
      fieldsAfter s.pres f = fs ++ g :: gs → (∀ p ∈ s.vals, p.1 ≤ f) →
      parseFields s.params.binLenMode s.catWord fs bs = some (vs, mid) →
      parseField s.params.binLenMode (s.catWord g) mid = none →
      ∃ t, (s.nextField f).RunsTo t ∧ FieldFails { s with vals := s.vals ++ vs, fidx := g } t := by
  induction fs with
  | nil =>
    intro s f bs vs hd h hfs _ hparse hnone
    cases hparse
    have hnext : s.nextField f = { s with phase := .field, fidx := g, stage := none } := by
      rw [State.nextField, nextPresent_eq_head?, hfs]
      rfl
    rw [hnext, List.append_nil]
    exact fails_of_parseField (s := { s with phase := .field, fidx := g, stage := none })
      ⟨hd.running, hd.busy, hd.reslen⟩ rfl rfl h hnone
  | cons j fs ih =>
    intro s f bs vs hd h hfs hvals hparse hnone
    obtain ⟨hfj, hjs⟩ := fieldsAfter_of_cons hfs
    have hnext : s.nextField f = { s with phase := .field, fidx := j, stage := none } := by
      rw [State.nextField, nextPresent_eq_head?, hfs]
      rfl
    obtain ⟨⟨x, after⟩, hx, hparse⟩ := Option.bind_eq_some_iff.1 hparse
    obtain ⟨⟨ws, last⟩, hws, he⟩ := Option.map_eq_some_iff.1 hparse
    cases he
    obtain ⟨hleft, d, st, k, hrun⟩ := stores_of_parseField (s := { s with phase := .field, fidx := j, stage := none })
      ⟨hd.running, hd.busy, hd.reslen⟩ rfl rfl h hx
    have hlt : ∀ p ∈ s.vals, p.1 < j := fun p hp => Nat.lt_of_le_of_lt (hvals p hp) hfj
    obtain ⟨t, hrunT, hfails⟩ := ih (f := j)
      (s := { s.leaving after with
        phase := .field, fidx := j, desc := d, stage := st, len := k, vals := sparseSet Value.absent s.vals j x })
      ⟨hd.running, hd.busy, hd.reslen⟩ hleft hjs
      (fun p hp => (mem_sparseSet hp).elim (fun e => by rw [e]) fun hp => Nat.le_of_lt (hlt p hp)) hws hnone
    rw [hnext]
    refine ⟨t, hrun t hrunT, ?_⟩
    rw [← sparseSet_append hlt]
    exact hfails

/-! ### The three phases that may fail (R348) -/

/-- A DECODE from `s` fails as `e` says in the item of the key `key`, which starts at `start`; what of the message has
been stored by then is `mti`, `valid` and `pres`, and no value. -/
def HeaderFails (s : State) (e : HeaderFailure) (key start : Nat) (mti : Mti) (valid : Bool) (pres : BitVec 128) :
    Prop :=
  (e.kind = .parseError ∨ e.kind = .specError) ∧
    exec .decode s = .next { s.errEnd e.kind e.cause (some key) with
      mti := mti, mtiValid := valid, pres := pres, vals := [], cursor := start + e.taken, errinfo := e.errinfo }

section Phase

variable {key : Nat} {e : HeaderFailure} {u : State} (hr : s.running = .decode)
include hr

theorem runsTo_mtiEnds (hp : s.phase = .mti) (h : e.Ends key u (mtiDecode s)) :
    s.RunsTo ({ u with cursor := u.cursor + e.taken, errinfo := e.errinfo }.raise e.kind e.cause (some key)) := by
  obtain ⟨-, hfail⟩ := h
  refine runsTo_last ?_ rfl
  simp only [seqStep, hp, mtiPhase, hr, reduceCtorEq, if_false, hfail, Res.fail_andThen]

theorem runsTo_bitmapEnds (hp : s.phase = .bitmap) (h : e.Ends key u (bitmapDecode s)) :
    s.RunsTo ({ u with cursor := u.cursor + e.taken, errinfo := e.errinfo }.raise e.kind e.cause (some key)) := by
  obtain ⟨-, hfail⟩ := h
  refine runsTo_last ?_ rfl
  simp only [seqStep, hp, bitmapPhase, hr, reduceCtorEq, if_false, hfail, Res.fail_andThen]

end Phase

/-- Failing in the MTI: an empty message (R221). -/
theorem decode_fails_in_mti (hb : s.bound = true) (hmti : parseMti (s.catWord 0) s.strict s.received = none) :
    ∃ e, mtiFailure (s.catWord 0) s.strict s.received = some e ∧ HeaderFails s e 0 0 s.mti false 0 := by
  obtain ⟨e, he, hends⟩ := mtiDecode_ends (s := decodeStart (s.begin .decode)) rfl (left_received rfl) hmti
  exact ⟨e, he, hends.1, exec_decode_of_runsTo hb (runsTo_mtiEnds rfl rfl hends)⟩

/-- The state in which the BITMAP phase of a DECODE begins: the MTI `m` is stored, `rest` is left. -/
def State.titled (s : State) (m : Bytes) (rest : Bytes) : State :=
  { ((decodeStart (s.begin .decode)).leaving rest).storeMti m with phase := .bitmap }

/-- A DECODE whose MTI parses comes to the BITMAP phase. -/
theorem exec_decode_of_mti {m : Bytes} (hb : s.bound = true)
    (hmti : parseMti (s.catWord 0) s.strict s.received = some (m, rest)) :
    (s.titled m rest).Left rest ∧ ∀ t, (s.titled m rest).RunsTo t → exec .decode s = .next t := by
  obtain ⟨hstep, hleft⟩ := mtiDecode_of_parseMti (s := decodeStart (s.begin .decode)) (left_received rfl) hmti
  refine ⟨hleft, fun t ht => exec_decode_of_runsTo hb ?_⟩
  exact State.Decoding.runsTo_step ⟨rfl, rfl, rfl⟩ (seqStep_mti rfl rfl hstep) rfl ht

section Bitmap

variable {m : Bytes} (hb : s.bound = true) (hmti : parseMti (s.catWord 0) s.strict s.received = some (m, bs))
include hb hmti

/-- Failing in the first bitmap word: the MTI. -/
theorem decode_fails_in_first_word (hw : parseWord (s.catWord 1) bs = none) :
    ∃ e, wordFailure (s.catWord 1) bs = some e ∧ HeaderFails s e 1 (s.rxlen - bs.length) (mtiOfBytes m) true 0 := by
  obtain ⟨hleft, hrun⟩ := exec_decode_of_mti hb hmti
  obtain ⟨e, he, hends⟩ := bitmapDecode_ends_first rfl hleft hw
  exact ⟨e, he, hends.1, hrun _ (runsTo_bitmapEnds rfl rfl hends)⟩

/-- Failing in the second word: the MTI and bits 1 to 64. -/
theorem decode_fails_in_second_word {w : BitmapWord} (hw : parseWord (s.catWord 1) bs = some (w, rest))
    (hmap : parseBitmap (s.catWord 1) bs = none) :
    ∃ e, wordFailure (s.catWord 1) rest = some e ∧
      HeaderFails s e 1 (s.rxlen - rest.length) (mtiOfBytes m) true (presOfWords w 0) := by
  obtain ⟨hleft, hrun⟩ := exec_decode_of_mti hb hmti
  obtain ⟨e, he, hends⟩ := bitmapDecode_ends_second rfl hleft hw hmap
  exact ⟨e, he, hends.1, hrun _ (runsTo_bitmapEnds rfl rfl hends)⟩

/-- Failing in the field `f`: the header and the values of the present fields before `f`. -/
theorem decode_fails_in_field {p : BitVec 128} {fs gs : List Nat} {vs : List (Nat × Value)}
    (hmap : parseBitmap (s.catWord 1) bs = some (p, mid)) (hsplit : presentFields p = fs ++ f :: gs)
    (hfs : parseFields s.params.binLenMode s.catWord fs mid = some (vs, rest))
    (hf : parseField s.params.binLenMode (s.catWord f) rest = none) :
    ∃ k c n, (k = .parseError ∨ k = .specError) ∧ exec .decode s = .next { s.errEnd k c (some f) with
      mti := mtiOfBytes m, mtiValid := true, pres := p, vals := vs, cursor := n, fidx := f, errinfo := 0 } := by
  obtain ⟨hleft, hrun⟩ := exec_decode_of_header hb hmti hmap
  obtain ⟨t, hrunT, k, c, n, hk, rfl⟩ := nextField_fails (s := s.headed (mtiOfBytes m) p mid) fs ⟨rfl, rfl, rfl⟩ hleft
    hsplit nofun hfs hf
  exact ⟨k, c, n, hk, hrun _ hrunT⟩

end Bitmap

/-! ### The whole command -/

/-- Where the header parses and the message does not, some field is the first that does not. -/
theorem exists_failing_field {m : Bytes} {p : BitVec 128} (hparse : s.parse = none)
    (hmti : parseMti (s.catWord 0) s.strict s.received = some (m, bs))
    (hmap : parseBitmap (s.catWord 1) bs = some (p, mid)) : ∃ fs f gs c, presentFields p = fs ++ f :: gs ∧
      parseFields s.params.binLenMode s.catWord fs mid = some c ∧
      parseField s.params.binLenMode (s.catWord f) c.2 = none := by
  rw [State.parse, parseMessage, hmti, Option.bind_some, hmap, Option.bind_some, Option.map_eq_none_iff] at hparse
  exact exists_of_parseFields_none hparse

/-- A DECODE that fails has changed nothing but what its frame names, whatever the phase in which it fails; a failure
behind the MTI leaves the MTI stored and ERRINFO clear. -/
theorem exec_decode_fails (hb : s.bound = true) (hparse : s.parse = none) :
    ∃ t, exec .decode s = .next t ∧ (t.kind = .parseError ∨ t.kind = .specError) ∧
      t = { s.errEnd t.kind t.cause t.ekey with
        mti := t.mti, mtiValid := t.mtiValid, pres := t.pres, vals := t.vals, cursor := t.cursor, fidx := t.fidx
        errinfo := t.errinfo } ∧
      ∀ a, parseMti (s.catWord 0) s.strict s.received = some a →
        t.mtiValid = true ∧ mtiBytes t.mti = a.1 ∧ t.errinfo = 0 := by
  cases hmti : parseMti (s.catWord 0) s.strict s.received with
  | none =>
    obtain ⟨e, -, hk, hexec⟩ := decode_fails_in_mti hb hmti
    exact ⟨_, hexec, hk, rfl, nofun⟩
  | some a =>
  obtain ⟨m, bs⟩ := a
  have hm : mtiBytes (mtiOfBytes m) = m := by
    obtain ⟨-, hcheck, -⟩ := parseMti_eq_some.1 hmti
    exact mtiBytes_mtiOfBytes (mtiCheck_length hcheck)
  cases hmap : parseBitmap (s.catWord 1) bs with
  | some b =>
    obtain ⟨fs, f, gs, c, hsplit, hfs, hf⟩ := exists_failing_field hparse hmti hmap
    obtain ⟨k, cause, n, hk, hexec⟩ := decode_fails_in_field hb hmti hmap hsplit hfs hf
    exact ⟨_, hexec, hk, rfl, fun _ ha => Option.some.inj ha ▸ ⟨rfl, hm, rfl⟩⟩
  | none =>
    cases hw : parseWord (s.catWord 1) bs with
    | none =>
      obtain ⟨e, he, hk, hexec⟩ := decode_fails_in_first_word hb hmti hw
      exact ⟨_, hexec, hk, rfl, fun _ ha => Option.some.inj ha ▸ ⟨rfl, hm, wordFailure_errinfo he⟩⟩
    | some x =>
      obtain ⟨e, he, hk, hexec⟩ := decode_fails_in_second_word hb hmti hw hmap
      exact ⟨_, hexec, hk, rfl, fun _ ha => Option.some.inj ha ▸ ⟨rfl, hm, wordFailure_errinfo he⟩⟩

/-- Settles O55: a DECODE has one outcome, so that what each phase says of its own failure is said of it. -/
theorem decodeFails : Obligations.DecodeFails := by
  intro s hb hparse
  obtain ⟨t, hexec, hk, hframe, hstored⟩ := exec_decode_fails hb hparse
  refine ⟨t, hexec, hk, hframe, fun hmti => ?mti, fun a hmti => ?behindMti⟩
  case mti =>
    obtain ⟨e, he, -, hexec'⟩ := decode_fails_in_mti hb hmti
    cases hexec.symm.trans hexec'
    exact ⟨rfl, rfl, rfl, e, he, rfl, rfl, rfl, rfl, rfl⟩
  case behindMti =>
    obtain ⟨hvalid, hbytes, hinfo⟩ := hstored a hmti
    refine ⟨hvalid, hbytes, hinfo, fun hw => ?firstWord, fun w hw hmap => ?secondWord,
      fun b fs f gs c hmap hsplit hfs hf => ?field⟩
    case firstWord =>
      obtain ⟨e, he, -, hexec'⟩ := decode_fails_in_first_word hb hmti hw
      cases hexec.symm.trans hexec'
      exact ⟨rfl, rfl, e, he, rfl, rfl, rfl, rfl, rfl⟩
    case secondWord =>
      obtain ⟨e, he, -, hexec'⟩ := decode_fails_in_second_word hb hmti hw hmap
      cases hexec.symm.trans hexec'
      exact ⟨rfl, rfl, e, he, rfl, rfl, rfl, rfl, rfl⟩
    case field =>
      obtain ⟨k, cause, n, -, hexec'⟩ := decode_fails_in_field hb hmti hmap hsplit hfs hf
      cases hexec.symm.trans hexec'
      exact ⟨rfl, rfl, rfl, rfl⟩

end Sys2Proof.Machine

end

section
/-! The end of every command (O60). BUSY falls and PHASE goes to IDLE in the two ends of a command, `State.finish` and
`State.raise` (R300, R340), and each command comes to one of them: the sequencer because its rank falls at every step
and `seqBound` is the rank it starts with, any other command because its rule does so behind the frame. -/

namespace Sys2Proof.Machine

variable {s : State}

/-- A framer whose command is over: BUSY is 0 and PHASE is IDLE. -/
def State.Ended (s : State) : Prop := s.busy = false ∧ s.phase = .idle

theorem ended_raise (s : State) (k : Kind) (c : Cause) (key : Option Nat) : (s.raise k c key).Ended := ⟨rfl, rfl⟩

theorem ended_finish (s : State) : s.finish.Ended := ⟨rfl, rfl⟩

theorem ended_scalarDone (rv : Word) (s : State) : (scalarDone rv s).Ended := ended_finish _

/-! ### The sequencer (R31) -/

/-- A running sequencer that is given as many steps as its rank ends the command. -/
theorem seqRun_ends {n : Nat} (hb : s.busy = true) (hl : s.reslen = 0) (hn : seqRank s ≤ n) :
    ∃ t, seqRun n s = .next t ∧ t.Ended := by
  induction n generalizing s with
  | zero =>
    have hpos := seqRank_pos s
    omega
  | succ n ih =>
    obtain ⟨u, hu⟩ := seqStep_next s
    rcases seqStep_spec hl hu with hends | ⟨hgoes, hrank⟩
    · exact ⟨u, by simp [seqRun, hu, hends.busy], hends.busy, hends.phase⟩
    · have hbu : u.busy = true := hgoes.busy.trans hb
      obtain ⟨t, ht, hended⟩ := ih hbu (hgoes.reslen.trans hl) (by omega)
      exact ⟨t, by simp [seqRun, hu, hbu, ht], hended⟩

/-- DECODE and BUILD are refused by the frame, or run from START, whose rank is `seqBound`. -/
theorem seqCommand_ends (r : Running) (s : State) : ∃ t, seqCommand r s = .next t ∧ t.Ended := by
  unfold seqCommand
  split
  · exact ⟨_, rfl, ended_raise _ _ _ _⟩
  · exact seqRun_ends rfl rfl (Nat.le_refl seqBound)

/-! ### Computations that may raise -/

/-- If the computation stops, then the command is over. -/
def Res.StopEnds {α : Type} : Res α → Prop
  | .val _ _ => True
  | .stop t => t.Ended

theorem Res.StopEnds.andThen {α : Type} {r : Res α} {g : α → State → State} (h : r.StopEnds)
    (hg : ∀ a t, (g a t).Ended) : (r.andThen g).Ended := by
  cases r with
  | val a t => exact hg a t
  | stop t => exact h

theorem stopEnds_fail {α : Type} (s : State) (k : Kind) (c : Cause) (key : Option Nat) :
    (Res.fail (α := α) s k c key).StopEnds := ended_raise s k c key

theorem stopEnds_putResult (v : Bytes) (s : State) : (putResult v s).StopEnds := by
  unfold putResult
  split
  · exact stopEnds_fail _ _ _ _
  · trivial

theorem stopEnds_catLookup (k : Nat) (s : State) : (catLookup k s).StopEnds := by
  unfold catLookup
  split
  · trivial
  · exact stopEnds_fail _ _ _ _

theorem stopEnds_mtiSet (t : Bytes) (s : State) : (mtiSet t s).StopEnds := by
  unfold mtiSet
  split
  · exact stopEnds_fail _ _ _ _
  split
  · exact stopEnds_fail _ _ _ _
  split
  · exact stopEnds_fail _ _ _ _
  · trivial

/-! ### The rules of the commands (R300 to R311, R140 to R145, R170 to R175) -/

theorem ended_resultDone (v : Bytes) (rv : Word) (s : State) : (resultDone v rv s).Ended :=
  (stopEnds_putResult v s).andThen fun _ _ => ended_finish _

/-- The frame raises, or the command's own rule runs behind it. -/
theorem ended_frame {nb ko bo : Bool} {rule : State → State} (hrule : ∀ u, (rule u).Ended) :
    (frame nb ko bo s rule).Ended :=
  frame_ends (fun _ _ => ended_raise _ _ _ _) (hrule _)

theorem ended_initRule (cat : BitVec 2) (strict : Bool) (s : State) : (initRule cat strict s).Ended := by
  simp only [initRule]
  split
  · exact ended_raise _ _ _ _
  split
  · exact ended_raise _ _ _ _
  · exact ended_finish _

theorem ended_setField (f : Nat) (v : Value) (s : State) : (setField f v s).Ended := by
  refine (stopEnds_catLookup f s).andThen fun _ _ => ?_
  split
  · exact ended_raise _ _ _ _
  · exact ended_finish _

theorem ended_introspect (key : BitVec 8) (view : FieldSpec → Word) : (introspect key s view).Ended :=
  ended_frame fun _ => (stopEnds_catLookup _ _).andThen fun _ _ => ended_scalarDone _ _

theorem ended_codecCommand (f : Bytes → Option (Bytes × Word)) : (codecCommand s f).Ended := by
  refine ended_frame fun _ => ?_
  split
  · exact ended_raise _ _ _ _
  · exact ended_resultDone _ _ _

/-! ### Every instruction -/

/-- A command answers a next state, and there it is over. -/
theorem exec_command_ends {i : Instr} (hi : i.format = .c) (s : State) : ∃ t, exec i s = .next t ∧ t.Ended := by
  cases i with
  | init cat strict => exact ⟨_, rfl, ended_frame fun _ => ended_initRule _ _ _⟩
  | decode => exact seqCommand_ends .decode s
  | build => exact seqCommand_ends .build s
  | setStrict arg => exact ⟨_, rfl, ended_frame fun _ => ended_finish _⟩
  | getStrict => exact ⟨_, rfl, ended_frame fun _ => ended_scalarDone _ _⟩
  | setMti => exact ⟨_, rfl, ended_frame fun _ => (stopEnds_mtiSet _ _).andThen fun _ _ => ended_finish _⟩
  | getMti =>
    refine ⟨_, rfl, ended_frame fun _ => ?_⟩
    split
    · exact ended_resultDone _ _ _
    · exact ended_scalarDone _ _
  | setBit key arg => exact ⟨_, rfl, ended_frame fun _ => ended_finish _⟩
  | getBit key => exact ⟨_, rfl, ended_frame fun _ => ended_scalarDone _ _⟩
  | setFieldTxt key => exact ⟨_, rfl, ended_frame fun _ => ended_setField _ _ _⟩
  | setFieldInt key =>
    refine ⟨_, rfl, ended_frame fun _ => ?_⟩
    split
    · exact ended_raise _ _ _ _
    · exact ended_setField _ _ _
  | getField key =>
    refine ⟨_, rfl, ended_frame fun _ => ?_⟩
    split
    · exact ended_scalarDone _ _
    · exact ended_resultDone _ _ _
    · exact ended_resultDone _ _ _
  | getDenc key | getLdisc key | getClass key | getLenc key | getMaxlen key => exact ⟨_, rfl, ended_introspect _ _⟩
  | getDesc key =>
    exact ⟨_, rfl, ended_frame fun _ => (stopEnds_catLookup _ _).andThen fun _ _ => ended_resultDone _ _ _⟩
  | bcdDecode | bcdEncode | bcdToInt | intToBcd | hexEncode | hexDecode => exact ⟨_, rfl, ended_codecCommand _⟩
  | _ => cases hi

/-- No instruction stops the machine: a micro-operation does at `exec` what it does at its stage (R105). -/
theorem exec_next (i : Instr) (s : State) : ∃ t, exec i s = .next t := by
  cases hi : i.format with
  | c =>
    obtain ⟨t, ht, -⟩ := exec_command_ends hi s
    exact ⟨t, ht⟩
  | d st => exact microOp_next (microOp_of_format hi)

/-- Settles O60: each instruction has one outcome, and a command's is a state in which it is over. -/
theorem everyCommandEnds : Obligations.EveryCommandEnds := by
  refine ⟨exec_next, fun i s t hi ht => ?_⟩
  obtain ⟨u, hu, hended⟩ := exec_command_ends hi s
  cases ht.symm.trans hu
  exact hended

end Sys2Proof.Machine

end
